-- ==== Sys2Proof/Word.lean ====
section
/-! DEFINITION. The value types of the engine: bytes, chaining words, command words (00_scope R7, R9, R11). -/

namespace Sys2Proof

/-- A byte, the unit of every byte space and of port DIN (20_memory R33). -/
abbrev Byte := BitVec 8

/-- A chaining word (00_scope R7: `WORD_BITS` is 32). -/
abbrev Word := BitVec 32

/-- A 64-bit command word, delivered as one unit on port CMD (30_encoding R51). -/
abbrev CmdWord := BitVec 64

/-- `zeros(n)`: `n` bytes of value 0x00 (00_scope R9). -/
def zeros (n : Nat) : List Byte := List.replicate n 0

end Sys2Proof
end

