-- ==== Sys2Proof/Syntax.lean ====
section
/-! DEFINITION. The commands of the engine: one constructor per row of spec/opcode_table.json (30_encoding R53). -/

namespace Sys2Proof

/-- A decoded command. The span of an UPDATE is not part of the word: its length is, and the bytes follow on DIN
(30_encoding R54, R55). -/
inductive Instr where
  /-- INIT, no operand (40_init R65). -/
  | init
  /-- UPDATE with the span length `LEN` in bytes (41_update R69). -/
  | update (len : Nat)
  /-- FINALIZE, no operand (42_finalize R81). -/
  | finalize
  deriving DecidableEq, Repr

end Sys2Proof
end

