-- ==== Sys2Proof/WellFormed.lean ====
section
/-! DEFINITION. Which commands a command word can carry (30_encoding R51, R54). -/

namespace Sys2Proof

/-- One more than the largest span length: `LEN` has 56 bits (30_encoding R51, R54). -/
def lenBound : Nat := 2 ^ 56

/-- A command is well formed when its span length fits the 56 bits of `LEN` (30_encoding R54). -/
def Instr.wellFormed : Instr → Bool
  | .init => true
  | .update len => len < lenBound
  | .finalize => true

/-- `Instr.wellFormed` as a proposition. -/
abbrev Instr.WellFormed (i : Instr) : Prop := i.wellFormed = true

end Sys2Proof
end

