-- ==== Sys2Proof/Decode.lean ====
section
/-! DEFINITION. The total decoder of command words and the encoder beside it (30_encoding R51 to R58). -/

namespace Sys2Proof

/-- Why a word is `ILLEGAL` (30_encoding R57, R58). -/
inductive Illegal where
  /-- `OPC` is not 0x01, 0x02 or 0x03 (30_encoding R57). -/
  | reservedOpcode (opc : Nat)
  /-- `OPC` is 0x01 and `LEN` is not 0 (30_encoding R58). -/
  | initWithLen (len : Nat)
  /-- `OPC` is 0x03 and `LEN` is not 0 (30_encoding R58). -/
  | finalizeWithLen (len : Nat)
  deriving DecidableEq, Repr

/-- `OPC = word[63:56]` (30_encoding R52). -/
def opcField (w : CmdWord) : Nat := w.toNat / 2 ^ 56

/-- `LEN = word[55:0]` (30_encoding R52). -/
def lenField (w : CmdWord) : Nat := w.toNat % 2 ^ 56

/-- The decoder of 30_encoding R56: total, and it reads no engine state. -/
def decode (w : CmdWord) : Except Illegal Instr :=
  if opcField w = 0x01 then
    if lenField w = 0 then .ok .init else .error (.initWithLen (lenField w))
  else if opcField w = 0x02 then .ok (.update (lenField w))
  else if opcField w = 0x03 then
    if lenField w = 0 then .ok .finalize else .error (.finalizeWithLen (lenField w))
  else .error (.reservedOpcode (opcField w))

/-- The operation code of a command (30_encoding R53). -/
def Instr.opcode : Instr → Nat
  | .init => 0x01
  | .update _ => 0x02
  | .finalize => 0x03

/-- The `LEN` field of a command; 0 where it must be 0 (30_encoding R53). -/
def Instr.lenOperand : Instr → Nat
  | .init => 0
  | .update len => len
  | .finalize => 0

/-- `word = OPC * 2^56 + LEN` (30_encoding R51). -/
def encode (i : Instr) : CmdWord := BitVec.ofNat 64 (i.opcode * 2 ^ 56 + i.lenOperand)

/-- Bytes of payload that belong to a word, told from the word alone (30_encoding R59). -/
def payloadLength (w : CmdWord) : Nat := if opcField w = 0x02 then lenField w else 0

/-- The command the decoder reads from a word given by its low `nbits` bits; the bits above are 0. A command word
is one unit of 64 bits and has no byte order (20_memory R41), so the table's bit numbers are the word's own. -/
def decodeTableWord (nbits w : Nat) : Option Instr :=
  match decode (BitVec.ofNat 64 (w % 2 ^ nbits)) with
  | .ok i => some i
  | .error _ => none

end Sys2Proof
end

