-- ==== Sys2Proof/Machine/Bytes.lean ====
section
/-! DEFINITION. Byte spaces and serialisation: MemRead, MemWrite (20_memory R36, R37), be32, be64 (00_scope R12), and the
digest layout (20_memory R40). -/

namespace Sys2Proof.Machine

/-- `be32(w)`: most significant byte first (00_scope R12). -/
def be32 (w : Word) : List Byte :=
  [w.extractLsb' 24 8, w.extractLsb' 16 8, w.extractLsb' 8 8, w.extractLsb' 0 8]

/-- `be64(v)`: most significant byte first (00_scope R12). -/
def be64 (v : BitVec 64) : List Byte :=
  [v.extractLsb' 56 8, v.extractLsb' 48 8, v.extractLsb' 40 8, v.extractLsb' 32 8,
   v.extractLsb' 24 8, v.extractLsb' 16 8, v.extractLsb' 8 8, v.extractLsb' 0 8]

/-- `m` with the bytes of `v` laid over it from index `a` on. What would fall past the end of `m` is dropped: the spec
gives such a write no meaning (20_memory R37) and no rule forms one (R34; log entry 12). -/
def overlay : (m : List Byte) → (a : Nat) → (v : List Byte) → List Byte
  | [], _, _ => []
  | m, 0, [] => m
  | _ :: m, 0, y :: v => y :: overlay m 0 v
  | x :: m, a + 1, v => x :: overlay m a v

/-- Laying bytes over a sequence keeps its length. -/
theorem overlay_length (m : List Byte) (a : Nat) (v : List Byte) : (overlay m a v).length = m.length := by
  fun_induction overlay m a v <;> simp_all

/-- `n` bytes of a sequence from index `a`, lowest index first (20_memory R36). -/
def sliceBytes (l : List Byte) (a n : Nat) : List Byte := (l.drop a).take n

/-- `MemRead(space, a, n)` (20_memory R36). -/
def memRead {k : Nat} (m : Vector Byte k) (a n : Nat) : List Byte := sliceBytes m.toList a n

/-- `MemWrite(space, a, n, v)` with `n = len(v)` (20_memory R37). -/
def memWrite {k : Nat} (m : Vector Byte k) (a : Nat) (v : List Byte) : Vector Byte k :=
  ⟨(overlay m.toList a v).toArray, by simp [overlay_length]⟩

/-- The first 64 bytes of a sequence as one block (20_memory R38); a shorter sequence is filled with 0x00, which no
request needs (43_compression_primitive R98). -/
def toBlock (l : List Byte) : Vector Byte 64 := memWrite (Vector.replicate 64 0) 0 (l.take 64)

/-- The digest bytes of the chaining words: `be32(H[0]) ++ be32(H[1]) ++ ...` (42_finalize R89, 20_memory R40). -/
def digestBytes {n : Nat} (h : Vector Word n) : List Byte := h.toList.flatMap be32

end Sys2Proof.Machine
end

