-- ==== Sys2Proof/Config.lean ====
section
/-! DEFINITION. What is bound at build time and never changes (70_reset_and_hazards R122), and the free values of reset
(70_reset_and_hazards R120). Nothing here that the spec leaves open has a body. -/

namespace Sys2Proof

/-- `N_H` is 5 or 8 and nothing else (00_scope R5; 93 U12: any other value is refused, here by the type). -/
inductive HashWidth where
  | five
  | eight
  deriving DecidableEq, Repr, Inhabited

/-- The number of chaining words (00_scope R5). -/
def HashWidth.words : HashWidth → Nat
  | .five => 5
  | .eight => 8

/-- The two open parameters over `n` chaining words: `IV` and `Compress1` (00_scope R8). Every operation of the engine
takes them as an argument, so that it can be run on the toy instances of 95_test_vectors section 2. -/
structure Algorithm (n : Nat) where
  /-- The initialisation constants. -/
  iv : Vector Word n
  /-- The primitive's action on one block: total and deterministic (43_compression_primitive R95). -/
  compress1 : Vector Word n → Vector Byte 64 → Vector Word n

/-- DESIGN CHOICE (log entry 1), safe: `N_H` of this engine, left open (00_scope R5, decision D20). -/
opaque Config.width : HashWidth

/-- `N_H` (00_scope R5). -/
abbrev Config.numWords : Nat := Config.width.words

/-- DESIGN CHOICE (log entry 1), safe: `IV`, left open (00_scope R8, decision D28). -/
opaque Config.iv : Vector Word Config.numWords

/-- DESIGN CHOICE (log entry 1), safe: `Compress1`, left open (00_scope R8, decision D28). -/
opaque Config.compress1 : Vector Word Config.numWords → Vector Byte 64 → Vector Word Config.numWords

/-- The parameters this engine is built with. -/
def Config.algorithm : Algorithm Config.numWords := ⟨Config.iv, Config.compress1⟩

/-- DESIGN CHOICE (log entry 2), unsafe: what `H` holds after hardware reset number `k` (70_reset_and_hazards R120). -/
opaque Config.unspecifiedH (k : Nat) : Vector Word Config.numWords

/-- DESIGN CHOICE (log entry 2), unsafe: what `COUNTER` holds after hardware reset number `k`. -/
opaque Config.unspecifiedCounter (k : Nat) : BitVec 64

/-- DESIGN CHOICE (log entry 2), unsafe: what `FILL` holds after hardware reset number `k`. -/
opaque Config.unspecifiedFill (k : Nat) : BitVec 6

/-- DESIGN CHOICE (log entry 2), unsafe: what `BUF` holds after hardware reset number `k`. -/
opaque Config.unspecifiedBuf (k : Nat) : Vector Byte 64

end Sys2Proof
end

