-- ==== Sys2Proof/Machine/State.lean ====
section
/-! DEFINITION. The state of the engine (10_state) and the reset state (10_state R32). Plain data throughout. -/

namespace Sys2Proof.Machine

/-- The engine never stops with a fault: every error of 60_exceptions R103 is a next state (R110), so no meaning and no
step raises one. The type has no constructor, which is safe: nothing can be hidden behind a fault. -/
inductive Fault where
  deriving DecidableEq, Repr

/-- Why the model has no answer. -/
inductive Refusal where
  /-- An arm of `exec` whose instruction has no meaning yet raises it; safe. No arm does. -/
  | notModelled (mnemonic : String)
  /-- A read on port DG with an index outside the register raises it (60_exceptions R116, 93 U11: no meaning); safe. -/
  | digestIndexOutOfRange (index : Nat)
  /-- A word sent on port CMD while another command waits for its payload raises it (60_exceptions R116, 93 U5: two commands at
  once have no transition, "refuse"); it names the word. Unsafe in that a property of the model says nothing about a chip so
  driven, as U5 says. -/
  | commandInProgress (word : CmdWord)
  deriving DecidableEq, Repr

/-- The lifecycle phase (10_state R20). DESIGN CHOICE (log entry 10), safe: three values, since 3 is never produced
(93 U9). -/
inductive Phase where
  | uninit
  | absorbing
  | consumed
  deriving DecidableEq, Repr

/-- One request on port COMP as the trace records it (43_compression_primitive R94, R102). -/
structure CompRequest where
  nblk : Nat
  blocks : List Byte
  deriving DecidableEq, Repr

/-- The source's HashState (`H`, `COUNTER`, `BUF`, `FILL`; 10_state R13 to R17) with the DIGEST register (R23) and the
COMP trace (43_compression_primitive R102), for `n` chaining words. -/
structure Datapath (n : Nat) where
  h : Vector Word n
  counter : BitVec 64
  buf : Vector Byte 64
  fill : BitVec 6
  digest : Vector Byte (4 * n)
  trace : List CompRequest
  deriving DecidableEq, Repr

/-- The whole engine, with its ports CMD and DIN as the transactions delivered and not yet consumed. -/
structure State where
  /-- Registers and byte spaces that commands work on. -/
  dp : Datapath Config.numWords
  /-- `STATUS.PHASE` (10_state R20). -/
  phase : Phase
  /-- `STATUS.ERR_ILLEGAL` (10_state R21). -/
  errIllegal : Bool
  /-- `STATUS.ERR_UPDATE_PHASE` (10_state R21). -/
  errUpdatePhase : Bool
  /-- `STATUS.ERR_FINALIZE_PHASE` (10_state R21). -/
  errFinalizePhase : Bool
  /-- Command words on CMD and not yet consumed, first to be taken first (60_exceptions R115). The host's transactions leave at
  most one, an UPDATE that waits for payload; a longer list is a run's bookkeeping (10_state R24; log entry 4). -/
  cmd : List CmdWord
  /-- Bytes on DIN, first message byte first (20_memory R33). -/
  din : List Byte
  /-- The model's own count of hardware resets: it selects the free values (log entry 3). -/
  epoch : Nat
  deriving DecidableEq, Repr

/-- The state after hardware reset number `k` (10_state R32, 70_reset_and_hazards R119): PHASE, the error bits and DIGEST
as the spec gives them, the ports empty, and the four unspecified registers at free values. -/
def State.afterReset (k : Nat) : State where
  dp :=
    { h := Config.unspecifiedH k
      counter := Config.unspecifiedCounter k
      buf := Config.unspecifiedBuf k
      fill := Config.unspecifiedFill k
      digest := Vector.replicate (4 * Config.numWords) 0
      trace := [] }
  phase := .uninit
  errIllegal := false
  errUpdatePhase := false
  errFinalizePhase := false
  cmd := []
  din := []
  epoch := k

/-- The engine right after reset (10_state R32). -/
def State.reset : State := State.afterReset 0

end Sys2Proof.Machine
end

