-- ==== Sys2Proof/Machine/Flags.lean ====
section
/-! DEFINITION. The STATUS register: its value as the host reads it, its phase codes and its error bits
(10_state R20, R21; 60_exceptions R104 to R106). The engine has no arithmetic flags. -/

namespace Sys2Proof.Machine

/-- The three error causes (60_exceptions R103). A refused UPDATE carries the payload length it drains (R105, R110). -/
inductive ErrorCause where
  /-- Cause 1, an illegal command word (60_exceptions R104). -/
  | illegalCommand
  /-- Cause 2, UPDATE outside ABSORBING (60_exceptions R105). -/
  | updatePhase (len : Nat)
  /-- Cause 3, FINALIZE outside ABSORBING (60_exceptions R106). -/
  | finalizePhase
  deriving DecidableEq, Repr

/-- The number of a cause (60_exceptions R104 to R106). -/
def causeNumber : ErrorCause → Nat
  | .illegalCommand => 1
  | .updatePhase _ => 2
  | .finalizePhase => 3

/-- DIN bytes an error consumes and discards: the payload of a refused UPDATE, else none (60_exceptions R110). -/
def drainedBytes : ErrorCause → Nat
  | .illegalCommand => 0
  | .updatePhase len => len
  | .finalizePhase => 0

/-- The code of a phase in `STATUS[1:0]` (10_state R20). -/
def phaseCode : Phase → Nat
  | .uninit => 0
  | .absorbing => 1
  | .consumed => 2

/-- STATUS as the host reads it: `PHASE + 4*ERR_ILLEGAL + 8*ERR_UPDATE_PHASE + 16*ERR_FINALIZE_PHASE`, bits `[31:5]` 0
(10_state R21). -/
def statusWord (s : State) : BitVec 32 :=
  BitVec.ofNat 32
    (phaseCode s.phase + 4 * s.errIllegal.toNat + 8 * s.errUpdatePhase.toNat + 16 * s.errFinalizePhase.toNat)

/-- Sets the sticky STATUS bit of a cause, bit `1 + cause` (10_state R21, 60_exceptions R110, R111). -/
def setErrorBit (c : ErrorCause) (s : State) : State :=
  match c with
  | .illegalCommand => { s with errIllegal := true }
  | .updatePhase _ => { s with errUpdatePhase := true }
  | .finalizePhase => { s with errFinalizePhase := true }

end Sys2Proof.Machine
end

