-- ==== Sys2Proof/Machine/Operands.lean ====
section
/-! DEFINITION. The one operand form of the engine: the span of an UPDATE, `len` bytes from DIN (30_encoding R54, R55). -/

namespace Sys2Proof.Machine

/-- All payload bytes are present on DIN (70_reset_and_hazards R126). -/
def spanReady (len : Nat) (s : State) : Bool := len ≤ s.din.length

/-- The span `IN`: the next `len` bytes of DIN, `IN[0]` first (30_encoding R55, decision D5). DESIGN CHOICE (log entry 4): bytes
that arrived on DIN before the UPDATE word count as its first ones, since CMD and DIN have no order between them here. -/
def spanBytes (len : Nat) (s : State) : List Byte := s.din.take len

/-- Consumes `len` bytes of DIN (20_memory R45: consumed exactly once). -/
def consumeSpan (len : Nat) (s : State) : State := { s with din := s.din.drop len }

end Sys2Proof.Machine
end

