-- ==== Sys2Proof/Machine/Ops.lean ====
section
/-! DEFINITION. The named operations the commands share: taking a word from CMD, ending a command, raising an error,
hardware reset, the placing of a word on the ports, and the request on port COMP. There is no return from an error: there is
no handler (60_exceptions R112). -/

namespace Sys2Proof.Machine

/-- The word at the head of CMD: commands are taken one at a time in arrival order (60_exceptions R115). -/
def fetchWord (s : State) : Option CmdWord := s.cmd.head?

/-- Ends a command: its word leaves CMD, consumed exactly once (20_memory R45, R50). -/
def retire (s : State) : State := { s with cmd := s.cmd.tail }

/-- `raise Error(cause)`: sets the STATUS bit of the cause, drains the payload of a refused UPDATE, ends the command, and
does nothing else (60_exceptions R110). -/
def raiseError (c : ErrorCause) (s : State) : State := retire (setErrorBit c (consumeSpan (drainedBytes c) s))

/-- Hardware reset: every field at its reset value, whatever the engine was doing; the ports are emptied and the
unspecified registers take new free values (70_reset_and_hazards R119, R120, R130). DEDUCED (log entry 7): words and
bytes delivered before the event and not yet consumed count as in flight and are dropped. -/
def hardwareReset (s : State) : State := State.afterReset (s.epoch + 1)

/-- The left fold of `Compress1` over `k` consecutive blocks of a byte sequence (43_compression_primitive R96). -/
def compressBlocks {n : Nat} (A : Algorithm n) : Nat → Vector Word n → List Byte → Vector Word n
  | 0, h, _ => h
  | k + 1, h, bytes => compressBlocks A k (A.compress1 h (toBlock bytes)) (bytes.drop 64)

/-- `CompressN(h, blocks)` (43_compression_primitive R96). -/
def compressN {n : Nat} (A : Algorithm n) (h : Vector Word n) (blocks : List Byte) : Vector Word n :=
  compressBlocks A (blocks.length / 64) h blocks

/-- `Comp(blocks)`: one request on port COMP with the current `H`; its response replaces `H` whole, and the trace records
the request (43_compression_primitive R94, R97). Request and response are one transition (R99; log entry 9). -/
def comp {n : Nat} (A : Algorithm n) (blocks : List Byte) (dp : Datapath n) : Datapath n :=
  { dp with
    h := compressN A dp.h blocks
    trace := dp.trace ++ [{ nblk := blocks.length / 64, blocks := blocks }] }

/-- A state in which the next step takes word `w`: the word is at the head of CMD, and DIN holds at least the payload that
belongs to it, filled up with 0x00 bytes (log entry 17). -/
def placeWord (w : CmdWord) (payload : Nat) (s : State) : State :=
  { s with
    cmd := w :: s.cmd
    din := s.din ++ zeros (payload - s.din.length) }

end Sys2Proof.Machine
end

