-- ==== Sys2Proof/Machine/Finalize.lean ====
section
/-! DEFINITION. The FINALIZE command, step by step as 42_finalize R82 to R91 give it. -/

namespace Sys2Proof.Machine

/-- F1: `total_bits <- (COUNTER * 8) mod 2^64` (42_finalize R82). -/
def totalBits (counter : BitVec 64) : BitVec 64 := counter * 8

/-- F2: the pad byte 0x80 at index `FILL`; `FILL` is not written (42_finalize R83). -/
def putPadByte {n : Nat} (dp : Datapath n) : Datapath n := { dp with buf := memWrite dp.buf dp.fill.toNat [0x80] }

/-- F3, the single-block path: zeros from `p` to 56, the length at `[56,64)`, one request of one block
(42_finalize R85). -/
def padSingle {n : Nat} (A : Algorithm n) (p : Nat) (bits : BitVec 64) (dp : Datapath n) : Datapath n :=
  let dp := { dp with buf := memWrite dp.buf p (zeros (56 - p)) }
  let dp := { dp with buf := memWrite dp.buf 56 (be64 bits) }
  comp A (memRead dp.buf 0 64) dp

/-- The 128-byte scratch of the two-block path (42_finalize R86). -/
def scratch (buf : Vector Byte 64) (bits : BitVec 64) : Vector Byte 128 :=
  let scr : Vector Byte 128 := memWrite (Vector.replicate 128 0) 0 (memRead buf 0 64)
  let scr := memWrite scr 64 (zeros 64)
  memWrite scr 120 (be64 bits)

/-- F4, the two-block path: one request of two blocks from the scratch; `BUF` is not written (42_finalize R86). -/
def padDouble {n : Nat} (A : Algorithm n) (bits : BitVec 64) (dp : Datapath n) : Datapath n :=
  comp A (memRead (scratch dp.buf bits) 0 128) dp

/-- F5: DIGEST takes the chaining words big-endian, every byte of it (42_finalize R89, R90). -/
def writeDigest {n : Nat} (dp : Datapath n) : Datapath n :=
  { dp with digest := memWrite dp.digest 0 (digestBytes dp.h) }

/-- The steps of an accepted FINALIZE in their order; the path is chosen by `p <= 56` with `p = FILL + 1`
(42_finalize R81, R84). -/
def finish {n : Nat} (A : Algorithm n) (dp : Datapath n) : Datapath n :=
  let bits := totalBits dp.counter
  let p := dp.fill.toNat + 1
  let dp := putPadByte dp
  writeDigest (if p ≤ 56 then padSingle A p bits dp else padDouble A bits dp)

/-- FINALIZE: accepted in ABSORBING, which it leaves for CONSUMED; otherwise refused with cause 3 (42_finalize R81, R91,
60_exceptions R106). -/
def execFinalize (s : State) : Host.Outcome State Fault Refusal :=
  if s.phase = .absorbing then
    .next (retire { s with dp := finish Config.algorithm s.dp, phase := .consumed })
  else .next (raiseError .finalizePhase s)

end Sys2Proof.Machine
end

