-- ==== Sys2Proof/Machine/Init.lean ====
section
/-! DEFINITION. The INIT command (40_init). -/

namespace Sys2Proof.Machine

/-- The registers after INIT: `H <- IV`, `COUNTER <- 0`, `BUF <- zeros(64)`, `FILL <- 0`; DIGEST and the trace stay
(40_init R65, R67). -/
def initDatapath {n : Nat} (A : Algorithm n) (dp : Datapath n) : Datapath n :=
  { dp with
    h := A.iv
    counter := 0
    buf := memWrite dp.buf 0 (zeros 64)
    fill := 0 }

/-- INIT is accepted in every phase and cannot fail or hold (40_init R65, R66, R68). -/
def execInit (s : State) : Host.Outcome State Fault Refusal :=
  .next (retire { s with dp := initDatapath Config.algorithm s.dp, phase := .absorbing })

end Sys2Proof.Machine
end

