-- ==== Sys2Proof/Machine/Update.lean ====
section
/-! DEFINITION. The UPDATE command, step by step as 41_update R72 to R77 give it. -/

namespace Sys2Proof.Machine

/-- S1: `COUNTER <- (COUNTER + L) mod 2^64` (41_update R72). -/
def addToCounter {n : Nat} (len : Nat) (dp : Datapath n) : Datapath n :=
  { dp with counter := dp.counter + BitVec.ofNat 64 len }

/-- S2, first branch: the whole span goes into the buffer tail (41_update R74). -/
def appendSpan {n : Nat} (span : List Byte) (dp : Datapath n) : Datapath n :=
  { dp with
    buf := memWrite dp.buf dp.fill.toNat span
    fill := BitVec.ofNat 6 (dp.fill.toNat + span.length) }

/-- S2, second branch, first half: `room` bytes complete the block in the buffer (41_update R75). -/
def fillBlock {n : Nat} (room : Nat) (span : List Byte) (dp : Datapath n) : Datapath n :=
  { dp with buf := memWrite dp.buf dp.fill.toNat (sliceBytes span 0 room) }

/-- S2, second branch, second half: one request with the completed block, then the buffer is cleared (41_update R75). -/
def flushBlock {n : Nat} (A : Algorithm n) (dp : Datapath n) : Datapath n :=
  let dp := comp A (memRead dp.buf 0 64) dp
  { dp with
    buf := memWrite dp.buf 0 (zeros 64)
    fill := 0 }

/-- `nblk <- rem div 64` with `rem = L - cursor` (41_update R76). -/
def wholeBlocks (span : List Byte) (cursor : Nat) : Nat := (span.length - cursor) / 64

/-- S3: all whole blocks of the remaining span in one request, straight from the span; nothing if there is none
(41_update R76, conflict C7). -/
def compressWhole {n : Nat} (A : Algorithm n) (span : List Byte) (cursor : Nat) (dp : Datapath n) : Datapath n :=
  if 64 ≤ span.length - cursor then comp A (sliceBytes span cursor (64 * wholeBlocks span cursor)) dp else dp

/-- S4: the remainder goes into the empty buffer; nothing if there is none (41_update R77). -/
def storeRemainder {n : Nat} (span : List Byte) (cursor : Nat) (dp : Datapath n) : Datapath n :=
  if 0 < span.length - cursor then
    { dp with
      buf := memWrite dp.buf 0 (sliceBytes span cursor (span.length - cursor))
      fill := BitVec.ofNat 6 (span.length - cursor) }
  else dp

/-- S3 then S4 from `cursor` (41_update R70). -/
def absorbFrom {n : Nat} (A : Algorithm n) (span : List Byte) (cursor : Nat) (dp : Datapath n) : Datapath n :=
  storeRemainder span (cursor + 64 * wholeBlocks span cursor) (compressWhole A span cursor dp)

/-- The four steps of an accepted UPDATE in their order (41_update R70, R73). -/
def absorb {n : Nat} (A : Algorithm n) (span : List Byte) (dp : Datapath n) : Datapath n :=
  let dp := addToCounter span.length dp
  if 0 < dp.fill.toNat then
    let room := 64 - dp.fill.toNat
    if span.length < room then appendSpan span dp
    else absorbFrom A span room (flushBlock A (fillBlock room span dp))
  else absorbFrom A span 0 dp

/-- UPDATE: while its payload is not complete the engine holds and nothing changes (70_reset_and_hazards R126; log entry
6); then it is accepted in ABSORBING and otherwise refused with cause 2 (41_update R69, 60_exceptions R105). -/
def execUpdate (len : Nat) (s : State) : Host.Outcome State Fault Refusal :=
  if spanReady len s then
    if s.phase = .absorbing then
      .next (retire (consumeSpan len { s with dp := absorb Config.algorithm (spanBytes len s) s.dp }))
    else .next (raiseError (.updatePhase len) s)
  else .next s

end Sys2Proof.Machine
end

