-- ==== Sys2Proof/Machine/Dispatch.lean ====
section
/-! DEFINITION. From a decoded command to its meaning (30_encoding R53). -/

namespace Sys2Proof.Machine

/-- One arm per command. -/
def exec (i : Instr) (s : State) : Host.Outcome State Fault Refusal :=
  match i with
  | .init => Sys2Proof.Machine.execInit s
  | .update len => Sys2Proof.Machine.execUpdate len s
  | .finalize => Sys2Proof.Machine.execFinalize s

end Sys2Proof.Machine
end

