-- ==== Sys2Proof/Machine/Step.lean ====
section
/-! DEFINITION. One step of the engine: one command word, if any, is taken from CMD, decoded and run (60_exceptions R109).
The host's transactions run it when a command arrives (`serveHost`, 20_memory R50); hardware reset is no step but the host's
transaction `serveHost .reset` (60_exceptions R116). -/

namespace Sys2Proof.Machine

/-- One step. With no word on CMD the engine does nothing (10_state R24; log entry 5); an illegal word raises cause 1
(60_exceptions R104). -/
def step (s : State) : Host.Outcome State Fault Refusal :=
  match fetchWord s with
  | none => .next s
  | some w =>
    match decode w with
    | .ok i => exec i s
    | .error _ => .next (raiseError .illegalCommand s)

/-- The state with the command word given by its low `nbits` bits placed where `step` takes its next command, with the
payload that belongs to it (log entry 17). -/
def State.withFetchWord (s : State) (nbits w : Nat) : State :=
  let word : CmdWord := BitVec.ofNat 64 (w % 2 ^ nbits)
  placeWord word (payloadLength word) s

end Sys2Proof.Machine
end

