-- ==== Sys2Proof/Machine/Assembly.lean ====
section
/-! DEFINITION. The textual syntax, one command per line, `;` starting a comment, and the pseudo-instruction HASH
(30_encoding R60 to R63). Lines are lists of characters. -/

namespace Sys2Proof.Machine

/-- A part of a span (30_encoding R61). -/
inductive SpanPart where
  /-- A hex string, two digits a byte. -/
  | hex (bytes : List Byte)
  /-- A double-quoted ASCII string, one byte per character. -/
  | text (chars : List Char)
  /-- `<byte>*<count>`. -/
  | repeated (b : Byte) (count : Nat)
  deriving DecidableEq, Repr

/-- A line of assembly; a span is its parts joined by `++` (30_encoding R60 to R63). -/
inductive AsmLine where
  | init
  | update (span : List SpanPart)
  | finalize
  | hash (span : List SpanPart)
  deriving DecidableEq, Repr

/-- Why a line does not assemble. -/
inductive AsmError where
  | unknownMnemonic
  | missingSpan
  | unexpectedOperand
  | badSpan
  | badHex
  | badCount
  | notAscii
  | unterminatedString
  | spanTooLong
  deriving DecidableEq, Repr

/-- What the host sends for one command: a word on CMD and its payload on DIN (30_encoding R59). -/
structure IssuedCommand where
  word : CmdWord
  payload : List Byte
  deriving DecidableEq, Repr

/-- The number of bytes a part stands for. -/
def spanPartLength : SpanPart → Nat
  | .hex bytes => bytes.length
  | .text chars => chars.length
  | .repeated _ count => count

/-- The bytes a part stands for (30_encoding R61). PRESUMED (log entry 18): the code of a character is its ASCII code. DESIGN
CHOICE (log entry 18): a character above 127 in a `text` part given directly stands for its code modulo 256; program text
never makes such a part, since `tokenPart` refuses it. -/
def spanPartBytes : SpanPart → List Byte
  | .hex bytes => bytes
  | .text chars => chars.map fun c => BitVec.ofNat 8 c.toNat
  | .repeated b count => List.replicate count b

/-- The length of a span. -/
def spanLength (span : List SpanPart) : Nat := (span.map spanPartLength).sum

/-- The bytes of a span, parts in order (30_encoding R61). -/
def spanPayload (span : List SpanPart) : List Byte := span.flatMap spanPartBytes

/-- `UPDATE <span>`: the word `0x02 * 2^56 + L` and the `L` payload bytes (30_encoding R61). A span that one word cannot
carry does not assemble (30_encoding R54). -/
def assembleUpdate (span : List SpanPart) : Except AsmError IssuedCommand :=
  if spanLength span < lenBound then .ok ⟨encode (.update (spanLength span)), spanPayload span⟩ else .error .spanTooLong

/-- The commands a line stands for (30_encoding R60 to R63). -/
def assemble : AsmLine → Except AsmError (List IssuedCommand)
  | .init => .ok [⟨encode .init, []⟩]
  | .update span => (assembleUpdate span).map fun u => [u]
  | .finalize => .ok [⟨encode .finalize, []⟩]
  | .hash span => (assembleUpdate span).map fun u => [⟨encode .init, []⟩, u, ⟨encode .finalize, []⟩]

/-- A token of a line. -/
inductive Token where
  | atom (chars : List Char)
  | quoted (chars : List Char)
  | join
  deriving DecidableEq, Repr

/-- Where the tokenizer stands; read characters are kept last first. -/
inductive LexMode where
  | between
  | inAtom (read : List Char)
  | inString (read : List Char)
  | afterPlus
  deriving DecidableEq, Repr

/-- The double quote. -/
def quoteChar : Char := Char.ofNat 34

/-- Blank characters between tokens. -/
def isBlankChar (c : Char) : Bool := c = ' ' || c = '\t'

/-- The tokens of a line up to its comment. DESIGN CHOICE (log entry 18): between double quotes `;` is a character of the
string like any other and starts no comment, which 30_encoding section 6 and R61 leave open. -/
def tokenize : LexMode → List Char → Except AsmError (List Token)
  | .between, [] => .ok []
  | .inAtom read, [] => .ok [.atom read.reverse]
  | .inString _, [] => .error .unterminatedString
  | .afterPlus, [] => .error .badSpan
  | .between, c :: rest =>
    if c = ';' then .ok []
    else if isBlankChar c then tokenize .between rest
    else if c = quoteChar then tokenize (.inString []) rest
    else if c = '+' then tokenize .afterPlus rest
    else tokenize (.inAtom [c]) rest
  | .inAtom read, c :: rest =>
    if c = ';' then .ok [.atom read.reverse]
    else if isBlankChar c then (tokenize .between rest).map (.atom read.reverse :: ·)
    else if c = quoteChar then (tokenize (.inString []) rest).map (.atom read.reverse :: ·)
    else if c = '+' then (tokenize .afterPlus rest).map (.atom read.reverse :: ·)
    else tokenize (.inAtom (c :: read)) rest
  | .inString read, c :: rest =>
    if c = quoteChar then (tokenize .between rest).map (.quoted read.reverse :: ·)
    else tokenize (.inString (c :: read)) rest
  | .afterPlus, c :: rest =>
    if c = '+' then (tokenize .between rest).map (.join :: ·) else .error .badSpan

/-- The value of a hex digit. -/
def hexDigit (c : Char) : Option Nat :=
  if '0' ≤ c ∧ c ≤ '9' then some (c.toNat - '0'.toNat)
  else if 'a' ≤ c ∧ c ≤ 'f' then some (c.toNat - 'a'.toNat + 10)
  else if 'A' ≤ c ∧ c ≤ 'F' then some (c.toNat - 'A'.toNat + 10)
  else none

/-- Bytes from pairs of hex digits, first byte first (00_scope R9). -/
def hexBytes : List Char → Except AsmError (List Byte)
  | [] => .ok []
  | [_] => .error .badHex
  | c :: d :: rest =>
    match hexDigit c, hexDigit d with
    | some x, some y => (hexBytes rest).map (BitVec.ofNat 8 (16 * x + y) :: ·)
    | _, _ => .error .badHex

/-- A decimal count, read on from the value so far. -/
def decimalFrom : Nat → List Char → Except AsmError Nat
  | n, [] => .ok n
  | n, c :: rest =>
    if '0' ≤ c ∧ c ≤ '9' then decimalFrom (10 * n + (c.toNat - '0'.toNat)) rest else .error .badCount

/-- The part an unquoted token stands for: a hex string or a repetition (30_encoding R61). DESIGN CHOICE (log entry 18):
the count is decimal, the digits of a byte are hex of either case. -/
def atomPart (chars : List Char) : Except AsmError SpanPart :=
  match chars.dropWhile (· ≠ '*') with
  | [] => (hexBytes chars).map .hex
  | _ :: count =>
    match hexBytes (chars.takeWhile (· ≠ '*')), count with
    | .ok [b], d :: ds => (decimalFrom 0 (d :: ds)).map (.repeated b)
    | .ok [_], [] => .error .badCount
    | _, _ => .error .badHex

/-- The part a token stands for. -/
def tokenPart : Token → Except AsmError SpanPart
  | .atom chars => atomPart chars
  | .quoted chars => if chars.all fun c => c.toNat < 128 then .ok (.text chars) else .error .notAscii
  | .join => .error .badSpan

/-- A span: parts with `++` between them (30_encoding R61). DESIGN CHOICE (log entry 18): a span has at least one part, so a
bare `UPDATE` or `HASH` is no command (`missingSpan`); the empty span is written `""`. R61 leaves open whether a hex string of
zero digits is a span. -/
def parseSpan : List Token → Except AsmError (List SpanPart)
  | [] => .error .missingSpan
  | [t] => (tokenPart t).map fun p => [p]
  | t :: .join :: rest =>
    match tokenPart t with
    | .ok p => (parseSpan rest).map (p :: ·)
    | .error e => .error e
  | _ :: _ :: _ => .error .badSpan

/-- One line: nothing, or a mnemonic with its operand (30_encoding R60 to R63). -/
def parseTokens : List Token → Except AsmError (Option AsmLine)
  | [] => .ok none
  | .atom m :: rest =>
    if m = ['I', 'N', 'I', 'T'] then if rest = [] then .ok (some .init) else .error .unexpectedOperand
    else if m = ['F', 'I', 'N', 'A', 'L', 'I', 'Z', 'E'] then
      if rest = [] then .ok (some .finalize) else .error .unexpectedOperand
    else if m = ['U', 'P', 'D', 'A', 'T', 'E'] then (parseSpan rest).map fun span => some (.update span)
    else if m = ['H', 'A', 'S', 'H'] then (parseSpan rest).map fun span => some (.hash span)
    else .error .unknownMnemonic
  | _ => .error .unknownMnemonic

/-- The commands one line of text stands for. -/
def assembleText (line : List Char) : Except AsmError (List IssuedCommand) :=
  match tokenize .between line with
  | .error e => .error e
  | .ok tokens =>
    match parseTokens tokens with
    | .error e => .error e
    | .ok none => .ok []
    | .ok (some l) => assemble l

/-- Commands placed on the ports in order, words on CMD and payloads on DIN, before the engine takes the first (30_encoding
R59, 20_memory R47). DESIGN CHOICE (log entry 4): they may all wait on the ports at once. -/
def issueCommands (us : List IssuedCommand) (s : State) : State :=
  { s with cmd := s.cmd ++ us.map (·.word), din := s.din ++ us.flatMap (·.payload) }

end Sys2Proof.Machine
end

