-- ==== Sys2Proof/Machine/HostPorts.lean ====
section
/-! DEFINITION. What passes between host and engine, complete (60_exceptions R116). No transaction falls inside a command; a
command runs inside the transaction that completes it (20_memory R45, R48, R50). -/

namespace Sys2Proof.Machine

/-- A transaction of the host (60_exceptions R116). -/
inductive HostRequest where
  /-- One command word on CMD. -/
  | writeCmd (w : CmdWord)
  /-- One payload byte on DIN. -/
  | writeDin (b : Byte)
  /-- A read of STATUS on SR. -/
  | readStatus
  /-- A read of `DIGEST[index]` on DG. -/
  | readDigest (index : Nat)
  /-- The hardware reset event. -/
  | reset
  deriving DecidableEq, Repr

/-- What the host gets back (60_exceptions R116). -/
inductive HostReply where
  | nothing
  | status (v : BitVec 32)
  | digestByte (b : Byte)
  deriving DecidableEq, Repr

/-- `DIGEST[index]`; an index outside the register has no meaning (10_state R23, 93 U11; log entry 11). -/
def digestByteAt (index : Nat) (s : State) : Except Refusal Byte :=
  match s.dp.digest[index]? with
  | some b => .ok b
  | none => .error (.digestIndexOutOfRange index)

/-- The engine takes up to `k` of the commands on CMD, one after the other (20_memory R47). A command that holds leaves the
state as it is, so nothing behind it is taken (70_reset_and_hazards R126). -/
def runCommands : Nat → State → State
  | 0, s => s
  | k + 1, s =>
    match step s with
    | .next t => runCommands k t
    | .fault _ => s
    | .refused _ => s

/-- What has arrived on the ports meets the engine: every command whose word and payload are there is run (20_memory R50,
70_reset_and_hazards R126). -/
def settle (s : State) : State := runCommands s.cmd.length s

/-- The engine's side of a host transaction. A command runs when its word arrives on CMD, inside that transaction, and is
complete when it ends, so a read after it sees all its effects (20_memory R48, R50, decision D10). An UPDATE whose payload is
not complete waits, and runs inside the DIN transaction of its last byte (70_reset_and_hazards R126; log entry 19). A word sent
while it waits is refused by name: two commands at once have no transition (60_exceptions R116, 70_reset_and_hazards R124, 93
U5). DESIGN CHOICE (log entry 4): a byte sent while no UPDATE waits is kept and becomes `IN[0]` of the next UPDATE. Reads have no side effect (20_memory R45); the reset event takes
effect in its own transaction (60_exceptions R116, 70_reset_and_hazards R119). -/
def serveHost (r : HostRequest) (s : State) : Except Refusal (State × HostReply) :=
  match r with
  | .writeCmd w => if s.cmd = [] then .ok (settle { s with cmd := [w] }, .nothing) else .error (.commandInProgress w)
  | .writeDin b => .ok (settle { s with din := s.din ++ [b] }, .nothing)
  | .readStatus => .ok (s, .status (statusWord s))
  | .readDigest index => (digestByteAt index s).map fun b => (s, .digestByte b)
  | .reset => .ok (hardwareReset s, .nothing)

end Sys2Proof.Machine
end

