-- ==== Sys2Proof/Safety.lean ====
section
/-! DEFINITION. The terms claims use: error-free runs, the invariants of the state, the message absorbed so far, the padded
message, and states that no observer can tell apart. -/

namespace Sys2Proof.Machine

/-- No command of the run so far was refused (60_exceptions R111, 70_reset_and_hazards R132). -/
def errorFree (s : State) : Bool := !s.errIllegal && !s.errUpdatePhase && !s.errFinalizePhase

/-- The valid tail bytes `BUF[0:FILL)` (10_state R17). -/
def tailBytes {n : Nat} (dp : Datapath n) : List Byte := dp.buf.toList.take dp.fill.toNat

/-- Every byte of `BUF` from `FILL` on is 0x00 (10_state R19). -/
def TailZero {n : Nat} (dp : Datapath n) : Prop :=
  dp.buf.toList.drop dp.fill.toNat = zeros (64 - dp.fill.toNat)

/-- What the engine guarantees of a request: at least one block, every block complete (43_compression_primitive R98). -/
def CompleteRequest (r : CompRequest) : Prop := 1 ≤ r.nblk ∧ r.blocks.length = 64 * r.nblk

/-- The block trace: the blocks of all requests in issue order (43_compression_primitive R102). -/
def blockTrace (trace : List CompRequest) : List Byte := trace.flatMap (·.blocks)

/-- The invariant of the engine between commands. -/
structure Inv (s : State) : Prop where
  /-- 10_state R19. -/
  tailZero : s.phase = .absorbing → TailZero s.dp
  /-- 10_state R30, with `COUNTER` modulo 2^64. -/
  fillOfCounter : s.phase = .absorbing → s.dp.fill.toNat = s.dp.counter.toNat % 64
  /-- 70_reset_and_hazards R128: in CONSUMED, DIGEST is the serialisation of the final chaining words. -/
  digestConsumed : s.phase = .consumed → s.dp.digest.toList = digestBytes s.dp.h
  /-- 70_reset_and_hazards R128: in UNINIT, DIGEST is the reset zeros. -/
  digestUninit : s.phase = .uninit → s.dp.digest.toList = zeros (4 * Config.numWords)
  /-- 43_compression_primitive R98. -/
  requests : ∀ r ∈ s.dp.trace, CompleteRequest r

/-- The whole blocks of a message: its first `64 * (len div 64)` bytes (10_state R30). -/
def wholePart (m : List Byte) : List Byte := m.take (64 * (m.length / 64))

/-- The registers hold message `m`, absorbed since an INIT at which the COMP trace was `trace0` (10_state R30). -/
structure Absorbed {n : Nat} (A : Algorithm n) (trace0 : List CompRequest) (m : List Byte) (dp : Datapath n) : Prop where
  counter : dp.counter = BitVec.ofNat 64 m.length
  fill : dp.fill.toNat = m.length % 64
  buf : dp.buf.toList = m.drop (64 * (m.length / 64)) ++ zeros (64 - m.length % 64)
  h : dp.h = compressN A A.iv (wholePart m)
  blocks : blockTrace dp.trace = blockTrace trace0 ++ wholePart m

/-- The number of pad zeros `z` for a message of `n` bytes (42_finalize R88). -/
def padZeros (n : Nat) : Nat := if n % 64 ≤ 55 then 55 - n % 64 else 119 - n % 64

/-- The padded message `P(M)` with the length field modulo 2^64 (42_finalize R88, 70_reset_and_hazards R127). -/
def paddedMessage (m : List Byte) : List Byte :=
  m ++ [0x80] ++ zeros (padZeros m.length) ++ be64 (BitVec.ofNat 64 (8 * m.length))

/-- The requests of an accepted UPDATE by the case table of 41_update R78, from the old tail and the span. -/
def updateRequests (tail span : List Byte) : List CompRequest :=
  let q := (tail.length + span.length) / 64
  if q = 0 then []
  else if tail.length = 0 then [⟨q, span.take (64 * q)⟩]
  else
    let first : CompRequest := ⟨1, tail ++ span.take (64 - tail.length)⟩
    if q = 1 then [first]
    else [first, ⟨q - 1, (span.drop (64 - tail.length)).take (64 * (q - 1))⟩]

/-- The host traffic of assembled commands: each word on CMD, then its payload on DIN (30_encoding R59). -/
def hostTraffic (us : List IssuedCommand) : List HostRequest :=
  us.flatMap fun u => .writeCmd u.word :: u.payload.map .writeDin

/-- Host transactions served one after the other; the replies are left out. -/
def serveAll : List HostRequest → State → Except Refusal State
  | [], s => .ok s
  | r :: rest, s =>
    match serveHost r s with
    | .ok (t, _) => serveAll rest t
    | .error e => .error e

/-- No command that could run waits: CMD is empty, or its first word is an UPDATE whose payload is not complete
(70_reset_and_hazards R126). -/
def Settled (s : State) : Prop :=
  ∀ w rest, s.cmd = w :: rest → ∃ len, decode w = .ok (.update len) ∧ s.din.length < len

/-- The phase after a command word, by the word and the phase before it (10_state R28, R29). -/
def nextPhase (w : CmdWord) (phase : Phase) : Phase :=
  match decode w with
  | .ok .init => .absorbing
  | .ok .finalize => if phase = .absorbing then .consumed else phase
  | .ok (.update _) => phase
  | .error _ => phase

/-- What the host sends to hash a message given as spans (70_reset_and_hazards R123). -/
def hashTraffic (spans : List (List Byte)) : List IssuedCommand :=
  ⟨encode .init, []⟩ :: spans.map (fun span => ⟨encode (.update span.length), span⟩) ++ [⟨encode .finalize, []⟩]

/-- The commands that hash a message given as spans (70_reset_and_hazards R123). -/
def hashCommands (spans : List (List Byte)) : List Instr :=
  .init :: spans.map (fun span => .update span.length) ++ [.finalize]

/-- A command that raises no error leaves these: the three error bits and the model's reset number. -/
structure SameRest (s t : State) : Prop where
  errIllegal : t.errIllegal = s.errIllegal
  errUpdatePhase : t.errUpdatePhase = s.errUpdatePhase
  errFinalizePhase : t.errFinalizePhase = s.errFinalizePhase
  epoch : t.epoch = s.epoch

/-- The number of error bits a step sets that were clear before it. -/
def newErrors (s t : State) : Nat :=
  (!s.errIllegal && t.errIllegal).toNat + (!s.errUpdatePhase && t.errUpdatePhase).toNat +
    (!s.errFinalizePhase && t.errFinalizePhase).toNat

/-- Two states no observer can tell apart: equal but for `H`, `COUNTER`, `FILL` and `BUF` outside ABSORBING, which no
command reads and no port shows there (10_state R29, R31; 93 U4, U6). -/
structure SameView (s t : State) : Prop where
  phase : s.phase = t.phase
  errIllegal : s.errIllegal = t.errIllegal
  errUpdatePhase : s.errUpdatePhase = t.errUpdatePhase
  errFinalizePhase : s.errFinalizePhase = t.errFinalizePhase
  digest : s.dp.digest = t.dp.digest
  trace : s.dp.trace = t.dp.trace
  cmd : s.cmd = t.cmd
  din : s.din = t.din
  working : s.phase = .absorbing → s.dp = t.dp

end Sys2Proof.Machine
end

