-- ==== Sys2Proof/Certificates/Slice0/Obligations.lean ====
section
/-! DEFINITION. The statements for the provers. Each says in its docstring which text of the spec it formalises. -/

open Sys2Proof Sys2Proof.Machine

/-! ## Bytes and serialisation -/

/-- 00_scope R12: `be32` and `be64` list the bytes of a value, most significant first, with R12's two examples. -/
def Obligations.BigEndianSerialisation : Prop :=
  (∀ w : Word, (be32 w).map BitVec.toNat =
    [w.toNat / 2 ^ 24 % 2 ^ 8, w.toNat / 2 ^ 16 % 2 ^ 8, w.toNat / 2 ^ 8 % 2 ^ 8, w.toNat % 2 ^ 8]) ∧
  (∀ v : BitVec 64, (be64 v).map BitVec.toNat =
    [v.toNat / 2 ^ 56 % 2 ^ 8, v.toNat / 2 ^ 48 % 2 ^ 8, v.toNat / 2 ^ 40 % 2 ^ 8, v.toNat / 2 ^ 32 % 2 ^ 8,
     v.toNat / 2 ^ 24 % 2 ^ 8, v.toNat / 2 ^ 16 % 2 ^ 8, v.toNat / 2 ^ 8 % 2 ^ 8, v.toNat % 2 ^ 8]) ∧
  be32 0x01020304 = [1, 2, 3, 4] ∧ be64 0x18 = [0, 0, 0, 0, 0, 0, 0, 0x18]

/-- 20_memory R37: a write inside its space sets the bytes `a` to `a + len(v) - 1` and changes no other byte; writing
nothing changes nothing. -/
def Obligations.MemWriteSetsExactlyItsBytes : Prop :=
  ∀ (k : Nat) (m : Vector Byte k) (a : Nat) (v : List Byte), a + v.length ≤ k →
    (∀ i, i < v.length → (memWrite m a v)[a + i]? = v[i]?) ∧
    (∀ i, i < a ∨ a + v.length ≤ i → (memWrite m a v)[i]? = m[i]?) ∧
    memWrite m a [] = m

/-- 20_memory R36 and R37: what was written is read back, and a read that does not meet the written bytes reads what it
would have read before. -/
def Obligations.MemReadAfterWrite : Prop :=
  ∀ (k : Nat) (m : Vector Byte k) (a : Nat) (v : List Byte), a + v.length ≤ k →
    memRead (memWrite m a v) a v.length = v ∧
    ∀ b l, b + l ≤ k → (b + l ≤ a ∨ a + v.length ≤ b) → memRead (memWrite m a v) b l = memRead m b l

/-- 20_memory R40: the digest determines the chaining words, so no bit of `H` is dropped. -/
def Obligations.DigestDeterminesChainingWords : Prop :=
  ∀ (n : Nat) (h g : Vector Word n), digestBytes h = digestBytes g → h = g

/-! ## Command words -/

/-- 30_encoding R53, the opcode map by match and mask: a word selects the row whose masked value is the match, and a word
that matches no row is illegal. -/
def Obligations.OpcodeMapDecodes : Prop :=
  ∀ w : CmdWord,
    (w &&& 0xFFFFFFFFFFFFFFFF = 0x0100000000000000 → decode w = .ok .init) ∧
    (w &&& 0xFF00000000000000 = 0x0200000000000000 → decode w = .ok (.update (w &&& 0x00FFFFFFFFFFFFFF).toNat)) ∧
    (w &&& 0xFFFFFFFFFFFFFFFF = 0x0300000000000000 → decode w = .ok .finalize) ∧
    (w &&& 0xFFFFFFFFFFFFFFFF ≠ 0x0100000000000000 → w &&& 0xFF00000000000000 ≠ 0x0200000000000000 →
      w &&& 0xFFFFFFFFFFFFFFFF ≠ 0x0300000000000000 → ∃ e, decode w = .error e)

/-- The twelve words of 95_test_vectors section 3 decode as that table says. -/
def Obligations.SampleWordsDecode : Prop :=
  decode 0x0100000000000000 = .ok .init ∧ decode 0x0200000000000000 = .ok (.update 0) ∧
  decode 0x0200000000000003 = .ok (.update 3) ∧ decode 0x02000000000F4240 = .ok (.update 1000000) ∧
  decode 0x02FFFFFFFFFFFFFF = .ok (.update (2 ^ 56 - 1)) ∧ decode 0x0300000000000000 = .ok .finalize ∧
  decode 0x0000000000000000 = .error (.reservedOpcode 0) ∧ decode 0x0100000000000001 = .error (.initWithLen 1) ∧
  decode 0x0300000000000001 = .error (.finalizeWithLen 1) ∧ decode 0x0400000000000000 = .error (.reservedOpcode 4) ∧
  decode 0xFF00000000000000 = .error (.reservedOpcode 0xFF) ∧ decode 0x8200000000000003 = .error (.reservedOpcode 0x82)

/-- 30_encoding R51, R53, R56: decoding an encoded well-formed command gives it back, whatever its span length. -/
def Obligations.DecodeOfEncode : Prop :=
  ∀ i : Instr, i.WellFormed → decode (encode i) = .ok i

/-- 30_encoding R51, R53, R56: a word that decodes carries a well-formed command and is that command's only word. -/
def Obligations.EncodeOfDecode : Prop :=
  ∀ (w : CmdWord) (i : Instr), decode w = .ok i → i.WellFormed ∧ encode i = w

/-- 30_encoding R59: the length of a command is told from the word alone, `LEN` for an UPDATE and 0 for every other word,
the illegal ones among them. -/
def Obligations.PayloadLengthOfWord : Prop :=
  ∀ w : CmdWord,
    (∀ len, decode w = .ok (.update len) → payloadLength w = len) ∧
    ((∀ len, decode w ≠ .ok (.update len)) → payloadLength w = 0)

/-- 30_encoding R60 to R63: INIT and FINALIZE assemble to their words; UPDATE of a span below 2^56 bytes assembles to
`0x02 * 2^56 + L` and the `L` bytes of the span, HASH to INIT, that UPDATE and FINALIZE; the bytes of a span are those of its
parts in order. Every command assembled is a legal word with exactly the payload it asks for. That a longer span does not
assemble and that a character stands for its code, modulo 256, are the model's choices (log entry 18). -/
def Obligations.AssembledCommandsAreLegal : Prop :=
  assemble .init = .ok [⟨0x0100000000000000, []⟩] ∧
  assemble .finalize = .ok [⟨0x0300000000000000, []⟩] ∧
  (∀ span, (spanPayload span).length < lenBound →
    assemble (.update span) =
      .ok [⟨BitVec.ofNat 64 (0x02 * 2 ^ 56 + (spanPayload span).length), spanPayload span⟩] ∧
    assemble (.hash span) =
      .ok [⟨0x0100000000000000, []⟩,
        ⟨BitVec.ofNat 64 (0x02 * 2 ^ 56 + (spanPayload span).length), spanPayload span⟩,
        ⟨0x0300000000000000, []⟩]) ∧
  (∀ span, lenBound ≤ (spanPayload span).length →
    assemble (.update span) = .error .spanTooLong ∧ assemble (.hash span) = .error .spanTooLong) ∧
  spanPayload [] = [] ∧
  (∀ bytes rest, spanPayload (.hex bytes :: rest) = bytes ++ spanPayload rest) ∧
  (∀ chars rest,
    spanPayload (.text chars :: rest) = (chars.map fun c => BitVec.ofNat 8 c.toNat) ++ spanPayload rest) ∧
  (∀ b count rest, spanPayload (.repeated b count :: rest) = List.replicate count b ++ spanPayload rest) ∧
  (∀ line us, assemble line = .ok us → ∀ u ∈ us,
    (∃ i, decode u.word = .ok i) ∧ payloadLength u.word = u.payload.length)

/-! ## The step -/

/-- A step at a word that decodes is `exec` of the decoded command at the same state: the word at the head of CMD is the
fetched one, and the command itself takes it off CMD when it completes. -/
def Obligations.StepRunsDecodedCommand : Prop :=
  ∀ (s : State) (w : CmdWord) (rest : List CmdWord) (i : Instr),
    s.cmd = w :: rest → decode w = .ok i → step s = exec i s

/-- 60_exceptions R104: a word with a reserved `OPC`, or with `OPC` 0x01 or 0x03 and `LEN` not 0, sets ERR_ILLEGAL, and
nothing else changes: no DIN byte is consumed and no request issued; the word itself is gone from CMD. -/
def Obligations.IllegalWordRaisesCauseOne : Prop :=
  ∀ (s : State) (w : CmdWord) (rest : List CmdWord), s.cmd = w :: rest →
    (opcField w ≠ 0x01 ∧ opcField w ≠ 0x02 ∧ opcField w ≠ 0x03 ∨
      (opcField w = 0x01 ∨ opcField w = 0x03) ∧ lenField w ≠ 0) →
    step s = .next { s with errIllegal := true, cmd := rest }

/-- With no word on CMD the engine does nothing. The model's choice (log entry 5), from 10_state R24: "it acts only when a
command word arrives on CMD". -/
def Obligations.IdleEngineDoesNothing : Prop :=
  ∀ s : State, s.cmd = [] → step s = .next s

/-- 70_reset_and_hazards R119, R130, 60_exceptions R116: the reset event, in every state, leaves the values of 10_state R32
with the ports empty; a read right after it gives them, and a word sent right after it is the next command: its transaction
leaves what one step leaves with that word on CMD (20_memory R48, R50), so STATUS reads 1 after an INIT, and an UPDATE with a
payload, refused in UNINIT though it will be, is left waiting for it (read by inference, log entries 6 and 19). That the trace is cleared is the model's choice (log entry 8), and that words and
bytes delivered before it are dropped is read by inference (log entry 7). The last clause is the model's: reset after a step
leaves the state that reset before it leaves, whatever the step did. It reads R130's reset during a command as one just before
or just after it (log entry 7), and it equates whole states, `H`, `COUNTER`, `FILL` and `BUF` among them, to which R120 gives
no value: they are equal because the model takes them from free values selected by the reset number, which no step changes
(log entries 2 and 3). -/
def Obligations.HardwareResetWins : Prop :=
  ∀ s : State, ∃ t, serveHost .reset s = .ok (t, .nothing) ∧
    t.phase = .uninit ∧ t.errIllegal = false ∧ t.errUpdatePhase = false ∧ t.errFinalizePhase = false ∧
    t.dp.digest.toList = zeros (4 * Config.numWords) ∧ t.cmd = [] ∧ t.din = [] ∧ t.dp.trace = [] ∧
    serveHost .readStatus t = .ok (t, .status 0) ∧
    (∀ i, i < 4 * Config.numWords → serveHost (.readDigest i) t = .ok (t, .digestByte 0)) ∧
    (∀ w, ∃ t', serveHost (.writeCmd w) t = .ok (t', .nothing) ∧ step { t with cmd := [w] } = .next t') ∧
    (∃ t', serveHost (.writeCmd 0x0100000000000000) t = .ok (t', .nothing) ∧
      serveHost .readStatus t' = .ok (t', .status 1)) ∧
    ∀ s', step s = .next s' → serveHost .reset s' = .ok (t, .nothing)

/-- 10_state R32: the values the spec gives for reset, and the empty ports. That the trace is empty is the model's choice
(log entry 8). -/
def Obligations.ResetValues : Prop :=
  State.reset.phase = .uninit ∧ State.reset.errIllegal = false ∧ State.reset.errUpdatePhase = false ∧
  State.reset.errFinalizePhase = false ∧ statusWord State.reset = 0 ∧
  State.reset.dp.digest.toList = zeros (4 * Config.numWords) ∧ State.reset.cmd = [] ∧ State.reset.din = [] ∧
  State.reset.dp.trace = []

/-- 60_exceptions R103, R110, R118: the engine never stops; from every state a step has a next state. -/
def Obligations.EveryStepHasNextState : Prop :=
  ∀ s : State, ∃ t, step s = .next t

/-! ## INIT -/

/-- 40_init R65: in every phase INIT completes with these values and no other change. -/
def Obligations.InitSetsWorkingState : Prop :=
  ∀ s : State, exec .init s = .next
    { s with
      dp := { s.dp with h := Config.algorithm.iv, counter := 0, buf := Vector.replicate 64 0, fill := 0 }
      phase := .absorbing
      cmd := s.cmd.tail }

/-- 40_init R66: the four working registers and the phase after INIT do not depend on the state before it, and two INITs
in a row leave the same registers, ports and STATUS as one that had both words before it. -/
def Obligations.InitForgetsTheState : Prop :=
  ∀ s t : State, ∃ s1 t1 s2, exec .init s = .next s1 ∧ exec .init t = .next t1 ∧ exec .init s1 = .next s2 ∧
    s1.dp.h = t1.dp.h ∧ s1.dp.counter = t1.dp.counter ∧ s1.dp.buf = t1.dp.buf ∧ s1.dp.fill = t1.dp.fill ∧
    s1.phase = t1.phase ∧ s2 = { s1 with cmd := s1.cmd.tail }

/-- 40_init R67, the frame of INIT: DIGEST, the trace, the error bits and DIN stay. -/
def Obligations.InitFrame : Prop :=
  ∀ s t : State, exec .init s = .next t →
    (∀ i : Nat, t.dp.digest[i]? = s.dp.digest[i]?) ∧ t.dp.trace = s.dp.trace ∧ t.din = s.din ∧ SameRest s t

/-! ## UPDATE -/

/-- 70_reset_and_hazards R126: while payload bytes are missing nothing changes and the word stays on CMD, in every phase.
That the hold covers an UPDATE that will be refused is read from 30_encoding R55 by inference (log entry 6). -/
def Obligations.UpdateHoldsUntilPayloadComplete : Prop :=
  ∀ (s : State) (len : Nat), s.din.length < len → exec (.update len) s = .next s

/-- 41_update R72: every accepted UPDATE adds its length to COUNTER modulo 2^64, sets no flag, consumes its payload and
its word, and leaves DIGEST. It completes in every state in ABSORBING whose payload is present. -/
def Obligations.UpdateCountsBytes : Prop :=
  ∀ (s : State) (len : Nat), s.phase = .absorbing → len ≤ s.din.length →
    ∃ t, exec (.update len) s = .next t ∧ t.dp.counter.toNat = (s.dp.counter.toNat + len) % 2 ^ 64 ∧
      statusWord t = statusWord s ∧ t.din = s.din.drop len ∧ t.cmd = s.cmd.tail ∧ t.dp.digest = s.dp.digest

/-- 41_update R74: a span shorter than the room of a non-empty buffer is copied into the tail; nothing else happens but the
counting of R72 and the consuming of word and payload. -/
def Obligations.UpdateShortSpanAppends : Prop :=
  ∀ (s : State) (len : Nat), s.phase = .absorbing → len ≤ s.din.length →
    0 < s.dp.fill.toNat → len < 64 - s.dp.fill.toNat →
    ∃ t, exec (.update len) s = .next t ∧
      t.dp.buf.toList = s.dp.buf.toList.take s.dp.fill.toNat ++ s.din.take len ++
        s.dp.buf.toList.drop (s.dp.fill.toNat + len) ∧
      t.dp.fill.toNat = s.dp.fill.toNat + len ∧ t.dp.h = s.dp.h ∧ t.dp.trace = s.dp.trace ∧
      t.dp.counter = s.dp.counter + BitVec.ofNat 64 len ∧ t.dp.digest = s.dp.digest ∧ t.phase = s.phase ∧
      t.din = s.din.drop len ∧ t.cmd = s.cmd.tail ∧ SameRest s t

/-- 41_update R75, with S3 and S4 left nothing to do: a span that exactly fills a non-empty buffer sends the one completed
block, clears the buffer and empties it. -/
def Obligations.UpdateExactFillFlushes : Prop :=
  ∀ (s : State) (len : Nat), s.phase = .absorbing → len ≤ s.din.length →
    0 < s.dp.fill.toNat → len = 64 - s.dp.fill.toNat →
    ∃ t, exec (.update len) s = .next t ∧
      t.dp.trace = s.dp.trace ++ [⟨1, tailBytes s.dp ++ s.din.take len⟩] ∧
      t.dp.h = Config.algorithm.compress1 s.dp.h (toBlock (tailBytes s.dp ++ s.din.take len)) ∧
      t.dp.buf.toList = zeros 64 ∧ t.dp.fill = 0

/-- 41_update R76, R77 from an empty buffer: all whole blocks of the span go in one request straight from the span, and
the rest is stored at the start of BUF, whose other bytes stay. -/
def Obligations.UpdateEmptyBufferSendsWholeBlocks : Prop :=
  ∀ (s : State) (len : Nat), s.phase = .absorbing → len ≤ s.din.length → s.dp.fill = 0 →
    ∃ t, exec (.update len) s = .next t ∧
      t.dp.trace = s.dp.trace ++ (if 64 ≤ len then [⟨len / 64, s.din.take (64 * (len / 64))⟩] else []) ∧
      t.dp.h = compressN Config.algorithm s.dp.h (s.din.take (64 * (len / 64))) ∧
      t.dp.buf.toList =
        (s.din.take len).drop (64 * (len / 64)) ++ s.dp.buf.toList.drop (len % 64) ∧
      t.dp.fill.toNat = len % 64

/-- 41_update, the closed form of an accepted UPDATE: with `X` the old tail and the span, `COUNTER` has grown by `L`, `FILL`
is `(f + L) mod 64`, `BUF` is the rest of `X` and zeros, `H` is folded over the whole blocks of `X`, and the requests are
grouped as the case table says. The premise is the zero-tail invariant, which `StepKeepsInvariant` keeps. -/
def Obligations.UpdateClosedForm : Prop :=
  ∀ (s : State) (len : Nat), s.phase = .absorbing → len ≤ s.din.length → TailZero s.dp →
    ∃ t, exec (.update len) s = .next t ∧
      (∀ X : List Byte, X = tailBytes s.dp ++ s.din.take len →
        t.dp.fill.toNat = X.length % 64 ∧
        t.dp.buf.toList = X.drop (64 * (X.length / 64)) ++ zeros (64 - X.length % 64) ∧
        t.dp.h = compressN Config.algorithm s.dp.h (wholePart X) ∧
        blockTrace t.dp.trace = blockTrace s.dp.trace ++ wholePart X) ∧
      t.dp.counter = s.dp.counter + BitVec.ofNat 64 len ∧
      t.dp.trace = s.dp.trace ++ updateRequests (tailBytes s.dp) (s.din.take len) ∧
      t.dp.digest = s.dp.digest ∧ t.phase = .absorbing ∧ t.cmd = s.cmd.tail ∧ t.din = s.din.drop len ∧ SameRest s t

/-- 41_update, streaming equivalence: UPDATE A then UPDATE B leaves the same `H`, `COUNTER`, `FILL`, `BUF` and block trace
as UPDATE (A ++ B); the empty span changes none of them. The premise is the zero-tail invariant, which
`StepKeepsInvariant` keeps. -/
def Obligations.UpdateStreamingEquivalence : Prop :=
  ∀ (s : State) (a b : Nat), s.phase = .absorbing → a + b ≤ s.din.length → TailZero s.dp →
    ∃ t1 t2 t t0, exec (.update a) s = .next t1 ∧ exec (.update b) t1 = .next t2 ∧
      exec (.update (a + b)) s = .next t ∧ exec (.update 0) s = .next t0 ∧
      t2.dp.h = t.dp.h ∧ t2.dp.counter = t.dp.counter ∧ t2.dp.fill = t.dp.fill ∧ t2.dp.buf = t.dp.buf ∧
      blockTrace t2.dp.trace = blockTrace t.dp.trace ∧ t2.din = t.din ∧ t2.phase = t.phase ∧ t0.dp = s.dp

/-- 60_exceptions R105: a well-formed UPDATE outside ABSORBING, its payload present, sets ERR_UPDATE_PHASE, drains its
payload, and nothing else changes; its word is gone from CMD. -/
def Obligations.RefusedUpdateDrainsPayload : Prop :=
  ∀ (s : State) (len : Nat), s.phase ≠ .absorbing → len ≤ s.din.length →
    exec (.update len) s = .next { s with errUpdatePhase := true, din := s.din.drop len, cmd := s.cmd.tail }

/-- The frame of UPDATE: DIGEST, the phase and the other two error bits stay; ERR_UPDATE_PHASE stays in ABSORBING; outside
ABSORBING no register changes; in ABSORBING the bytes of BUF outside those that the branch stores stay (41_update R74, R76,
R77), for the branches that do not clear BUF. -/
def Obligations.UpdateFrame : Prop :=
  ∀ (s t : State) (len : Nat), exec (.update len) s = .next t →
    (∀ i : Nat, t.dp.digest[i]? = s.dp.digest[i]?) ∧ t.phase = s.phase ∧ t.errIllegal = s.errIllegal ∧
    t.errFinalizePhase = s.errFinalizePhase ∧ t.epoch = s.epoch ∧
    (s.phase = .absorbing → t.errUpdatePhase = s.errUpdatePhase) ∧
    (s.phase ≠ .absorbing → t.dp = s.dp) ∧
    (0 < s.dp.fill.toNat → len < 64 - s.dp.fill.toNat →
      t.dp.h = s.dp.h ∧ t.dp.trace = s.dp.trace ∧
      ∀ i : Nat, i < s.dp.fill.toNat ∨ s.dp.fill.toNat + len ≤ i → t.dp.buf[i]? = s.dp.buf[i]?) ∧
    (s.dp.fill.toNat = 0 → ∀ i : Nat, len % 64 ≤ i → t.dp.buf[i]? = s.dp.buf[i]?) ∧
    (s.dp.fill.toNat = 0 → len < 64 → t.dp.h = s.dp.h ∧ t.dp.trace = s.dp.trace)

/-- 43_compression_primitive R98, R100, R101: an UPDATE issues no, one or two requests, each of whole blocks, and
none of it changes what the trace held. -/
def Obligations.UpdateIssuesAtMostTwoRequests : Prop :=
  ∀ (s t : State) (len : Nat), exec (.update len) s = .next t →
    ∃ new : List CompRequest, t.dp.trace = s.dp.trace ++ new ∧ new.length ≤ 2 ∧ ∀ r ∈ new, CompleteRequest r

/-- 10_state, the tail invariant: if the registers hold message `M` absorbed since an INIT, an accepted UPDATE leaves them
holding `M` and the span; the registers hold the empty message after INIT. -/
def Obligations.RegistersHoldMessage : Prop :=
  (∀ s : State, ∃ t, exec .init s = .next t ∧ Absorbed Config.algorithm s.dp.trace [] t.dp) ∧
  (∀ (s : State) (len : Nat) (trace0 : List CompRequest) (m : List Byte),
    s.phase = .absorbing → len ≤ s.din.length → Absorbed Config.algorithm trace0 m s.dp →
    ∃ t, exec (.update len) s = .next t ∧ t.phase = .absorbing ∧
      Absorbed Config.algorithm trace0 (m ++ s.din.take len) t.dp)

/-! ## FINALIZE -/

/-- 42_finalize R85, the single-block path for every FILL up to 55, in every state in ABSORBING: the block is the tail, 0x80,
zeros and the big-endian bit length; it is one request of one block, BUF keeps it, COUNTER and FILL stay. -/
def Obligations.FinalizeSingleBlock : Prop :=
  ∀ (s : State) (block : List Byte), s.phase = .absorbing → s.dp.fill.toNat ≤ 55 →
    block = tailBytes s.dp ++ [0x80] ++ zeros (55 - s.dp.fill.toNat) ++
      be64 (BitVec.ofNat 64 (8 * s.dp.counter.toNat)) →
    ∃ t, exec .finalize s = .next t ∧
      t.dp.trace = s.dp.trace ++ [⟨1, block⟩] ∧ t.dp.buf.toList = block ∧
      t.dp.h = Config.algorithm.compress1 s.dp.h (toBlock block) ∧ t.dp.digest.toList = digestBytes t.dp.h ∧
      t.dp.counter = s.dp.counter ∧ t.dp.fill = s.dp.fill ∧ t.phase = .consumed ∧ t.cmd = s.cmd.tail ∧
      t.din = s.din ∧ SameRest s t

/-- 42_finalize R86, the two-block path for every FILL from 56, in every state in ABSORBING: the scratch is BUF with the pad
byte, 56 zeros and the big-endian bit length; it is one request of two blocks, BUF keeps only the pad byte. -/
def Obligations.FinalizeTwoBlocks : Prop :=
  ∀ (s : State) (first second : List Byte), s.phase = .absorbing → 56 ≤ s.dp.fill.toNat →
    first = tailBytes s.dp ++ [0x80] ++ s.dp.buf.toList.drop (s.dp.fill.toNat + 1) →
    second = zeros 56 ++ be64 (BitVec.ofNat 64 (8 * s.dp.counter.toNat)) →
    ∃ t, exec .finalize s = .next t ∧
      t.dp.trace = s.dp.trace ++ [⟨2, first ++ second⟩] ∧ t.dp.buf.toList = first ∧
      t.dp.h = Config.algorithm.compress1 (Config.algorithm.compress1 s.dp.h (toBlock first)) (toBlock second) ∧
      t.dp.digest.toList = digestBytes t.dp.h ∧ t.dp.counter = s.dp.counter ∧ t.dp.fill = s.dp.fill ∧
      t.phase = .consumed ∧ t.cmd = s.cmd.tail ∧ t.din = s.din ∧ SameRest s t

/-- 42_finalize, padding of the two-block path: under the zero-tail invariant the first block holds zeros after the pad
byte although FINALIZE writes none. `StepKeepsInvariant` keeps the premise. -/
def Obligations.FinalizeTwoBlocksPadWithZeros : Prop :=
  ∀ s : State, s.phase = .absorbing → 56 ≤ s.dp.fill.toNat → TailZero s.dp →
    ∃ t, exec .finalize s = .next t ∧
      t.dp.trace = s.dp.trace ++
        [⟨2, tailBytes s.dp ++ [0x80] ++ zeros (63 - s.dp.fill.toNat) ++ zeros 56 ++
          be64 (BitVec.ofNat 64 (8 * s.dp.counter.toNat))⟩]

/-- 42_finalize R89, R90 and 20_memory R40: an accepted FINALIZE writes every byte of DIGEST, `be32(H[i])` at `4*i`. -/
def Obligations.FinalizeWritesWholeDigest : Prop :=
  ∀ s : State, s.phase = .absorbing → ∃ t, exec .finalize s = .next t ∧
    ∀ (i : Nat) (lt : i < Config.numWords), memRead t.dp.digest (4 * i) 4 = be32 t.dp.h[i]

/-- 60_exceptions R106: FINALIZE outside ABSORBING sets ERR_FINALIZE_PHASE, and nothing else changes; its word is gone from
CMD. -/
def Obligations.RefusedFinalizeChangesNothing : Prop :=
  ∀ s : State, s.phase ≠ .absorbing →
    exec .finalize s = .next { s with errFinalizePhase := true, cmd := s.cmd.tail }

/-- The frame of FINALIZE: COUNTER, FILL, DIN and the two other error bits stay, the bytes of BUF below FILL stay, in the
two-block path every byte of BUF but the one at FILL (42_finalize R83, R86, R91); exactly one request is added in ABSORBING
(R92), and outside ABSORBING no register changes. -/
def Obligations.FinalizeFrame : Prop :=
  ∀ s t : State, exec .finalize s = .next t →
    t.dp.counter = s.dp.counter ∧ t.dp.fill = s.dp.fill ∧ t.din = s.din ∧ t.errIllegal = s.errIllegal ∧
    t.errUpdatePhase = s.errUpdatePhase ∧ t.epoch = s.epoch ∧
    (s.phase = .absorbing → t.errFinalizePhase = s.errFinalizePhase) ∧
    (s.phase ≠ .absorbing → t.dp = s.dp ∧ t.phase = s.phase) ∧
    (∀ i : Nat, i < s.dp.fill.toNat → t.dp.buf[i]? = s.dp.buf[i]?) ∧
    (56 ≤ s.dp.fill.toNat → ∀ i : Nat, i ≠ s.dp.fill.toNat → t.dp.buf[i]? = s.dp.buf[i]?) ∧
    (s.phase = .absorbing → ∃ r, t.dp.trace = s.dp.trace ++ [r] ∧ CompleteRequest r)

/-! ## The compression port -/

/-- 43_compression_primitive R96: `CompressN` of no block is the identity, of one block is `Compress1` of that block's 64
bytes, and over two block sequences is the composition, for every algorithm. -/
def Obligations.CompressNFoldsBlocks : Prop :=
  ∀ (n : Nat) (A : Algorithm n) (h : Vector Word n),
    compressN A h [] = h ∧
    (∀ block : Vector Byte 64, compressN A h block.toList = A.compress1 h block) ∧
    (∀ (k : Nat) (b1 b2 : List Byte), b1.length = 64 * k →
      compressN A h (b1 ++ b2) = compressN A (compressN A h b1) b2)

/-- 43_compression_primitive, the block counts of R101: the padded message of `n` bytes is `n div 64 + 1` blocks when
`n mod 64 <= 55` and `n div 64 + 2` otherwise, the least number of blocks that holds `n + 9` bytes. -/
def Obligations.PaddedMessageLength : Prop :=
  ∀ m : List Byte,
    (m.length % 64 ≤ 55 → (paddedMessage m).length = 64 * (m.length / 64 + 1)) ∧
    (56 ≤ m.length % 64 → (paddedMessage m).length = 64 * (m.length / 64 + 2)) ∧
    ∀ k, m.length + 9 ≤ 64 * k → (paddedMessage m).length ≤ 64 * k

/-! ## STATUS, errors, phases, host -/

/-- 10_state R20, R21: the fields of STATUS by bit position; bits 31 to 5 read as 0 and PHASE is never 3. -/
def Obligations.StatusLayout : Prop :=
  ∀ s : State,
    (statusWord s).toNat % 4 = phaseCode s.phase ∧ (statusWord s).toNat % 4 ≠ 3 ∧
    (statusWord s).getLsbD 2 = s.errIllegal ∧ (statusWord s).getLsbD 3 = s.errUpdatePhase ∧
    (statusWord s).getLsbD 4 = s.errFinalizePhase ∧ ∀ i, 5 ≤ i → (statusWord s).getLsbD i = false

/-- 60_exceptions R111: an error bit once set stays 1 through every step, INIT included, and through every transaction of the
host, the commands it runs included, until a hardware reset, which clears all three. -/
def Obligations.ErrorBitsAreSticky : Prop :=
  (∀ s t : State, step s = .next t →
    (s.errIllegal = true → t.errIllegal = true) ∧ (s.errUpdatePhase = true → t.errUpdatePhase = true) ∧
    (s.errFinalizePhase = true → t.errFinalizePhase = true)) ∧
  (∀ (r : HostRequest) (s t : State) (reply : HostReply), serveHost r s = .ok (t, reply) →
    if r = .reset then t.errIllegal = false ∧ t.errUpdatePhase = false ∧ t.errFinalizePhase = false
    else (s.errIllegal = true → t.errIllegal = true) ∧ (s.errUpdatePhase = true → t.errUpdatePhase = true) ∧
      (s.errFinalizePhase = true → t.errFinalizePhase = true))

/-- 60_exceptions, 70_reset_and_hazards section 5: a step that takes a word and leaves the three error bits 0 started with
them 0, and its word was a legal command that was not refused (an UPDATE still waiting for payload is not refused). -/
def Obligations.ErrorFreeStepTookAcceptedCommand : Prop :=
  ∀ (s t : State) (w : CmdWord) (rest : List CmdWord), s.cmd = w :: rest →
    step s = .next t → errorFree t = true →
    errorFree s = true ∧ ∃ i, decode w = .ok i ∧
      (∀ len, i = .update len → s.phase = .absorbing ∨ s.din.length < len) ∧
      (i = .finalize → s.phase = .absorbing)

/-- 60_exceptions R109: a step raises at most one error, and a FINALIZE word with `LEN` not 0 in CONSUMED raises cause 1
only. -/
def Obligations.AtMostOneErrorPerCommand : Prop :=
  (∀ s t : State, step s = .next t → newErrors s t ≤ 1) ∧
  (∀ (s t : State) (w : CmdWord), s.cmd = [w] → s.phase = .consumed → opcField w = 0x03 →
    lenField w ≠ 0 → step s = .next t →
    t.errIllegal = true ∧ t.errFinalizePhase = s.errFinalizePhase ∧ t.errUpdatePhase = s.errUpdatePhase)

/-- 10_state, the phase machine of section 6: the next phase is decided by reset, the word taken and the phase, as the table
says (`nextPhase`); only reset, INIT and an accepted FINALIZE change it. For the step; for the transactions of the host with no
command in progress (70_reset_and_hazards R124); and for a byte on DIN while UPDATEs wait, which changes no phase. -/
def Obligations.PhaseMachine : Prop :=
  (∀ s t : State, step s = .next t →
    t.phase =
      match s.cmd with
      | [] => s.phase
      | w :: _ => nextPhase w s.phase) ∧
  (∀ (s t : State) (reply : HostReply), serveHost .reset s = .ok (t, reply) → t.phase = .uninit) ∧
  (∀ (s t : State) (reply : HostReply), serveHost .readStatus s = .ok (t, reply) → t.phase = s.phase) ∧
  (∀ (s t : State) (reply : HostReply) (i : Nat), serveHost (.readDigest i) s = .ok (t, reply) → t.phase = s.phase) ∧
  (∀ (s t : State) (reply : HostReply) (w : CmdWord), s.cmd = [] → serveHost (.writeCmd w) s = .ok (t, reply) →
    t.phase = nextPhase w s.phase) ∧
  (∀ (s t : State) (reply : HostReply) (b : Byte), (∀ w ∈ s.cmd, ∃ len, decode w = .ok (.update len)) →
    serveHost (.writeDin b) s = .ok (t, reply) → t.phase = s.phase)

/-- 10_state R23: DIGEST changes only when an accepted FINALIZE or a hardware reset is taken: in a step by the FINALIZE word
at the head of CMD in ABSORBING, in a host transaction by a reset, by the FINALIZE word it brings, or by one that waited on
CMD (log entry 4). -/
def Obligations.OnlyFinalizeAndResetWriteDigest : Prop :=
  (∀ s t : State, step s = .next t → t.dp.digest ≠ s.dp.digest →
    s.phase = .absorbing ∧ ∃ rest, s.cmd = 0x0300000000000000 :: rest) ∧
  (∀ (r : HostRequest) (s t : State) (reply : HostReply), serveHost r s = .ok (t, reply) →
    t.dp.digest ≠ s.dp.digest →
    r = .reset ∨ r = .writeCmd 0x0300000000000000 ∨ (0x0300000000000000 : CmdWord) ∈ s.cmd)

/-- 10_state R14, R29: outside ABSORBING no step but an INIT changes `H`, `COUNTER`, `FILL`, `BUF` or DIGEST, and none issues a
request; the same of a word the host sends with no command in progress. A transaction of the host that changes any of them, or
the trace, in any phase, is a reset, brings a command word, or is a byte on DIN that a command on CMD waits for. -/
def Obligations.WorkingStateChangesOnlyByInitOutsideAbsorbing : Prop :=
  (∀ s t : State, s.phase ≠ .absorbing → step s = .next t → t.dp ≠ s.dp →
    ∃ rest, s.cmd = 0x0100000000000000 :: rest ∧ t.dp.trace = s.dp.trace) ∧
  (∀ (s t : State) (reply : HostReply) (w : CmdWord), s.phase ≠ .absorbing → s.cmd = [] →
    serveHost (.writeCmd w) s = .ok (t, reply) → t.dp ≠ s.dp →
    w = 0x0100000000000000 ∧ t.dp.trace = s.dp.trace) ∧
  (∀ (r : HostRequest) (s t : State) (reply : HostReply), serveHost r s = .ok (t, reply) → t.dp ≠ s.dp →
    r = .reset ∨ (∃ w, r = .writeCmd w) ∨ (∃ b, r = .writeDin b ∧ s.cmd ≠ []))

/-- 60_exceptions R116, 20_memory R45: reads of STATUS and DIGEST return the register and change nothing. That an index
outside DIGEST is refused is the model's choice (log entry 11). -/
def Obligations.HostReadsHaveNoSideEffect : Prop :=
  ∀ s : State,
    serveHost .readStatus s = .ok (s, .status (statusWord s)) ∧
    (∀ (i : Nat) (lt : i < 4 * Config.numWords), serveHost (.readDigest i) s = .ok (s, .digestByte s.dp.digest[i])) ∧
    (∀ i : Nat, 4 * Config.numWords ≤ i → serveHost (.readDigest i) s = .error (.digestIndexOutOfRange i))

/-! ## Whole-machine statements -/

/-- The invariant holds at reset. -/
def Obligations.ResetMeetsInvariant : Prop := Inv State.reset

/-- Every step keeps the invariant: the zero tail and `FILL = COUNTER mod 64` while ABSORBING, DIGEST the serialisation of
`H` in CONSUMED and zeros in UNINIT, and every request of the trace complete (10_state, 43_compression_primitive R98,
70_reset_and_hazards). -/
def Obligations.StepKeepsInvariant : Prop :=
  ∀ s t : State, Inv s → step s = .next t → Inv t

/-- Every transaction of the host keeps the invariant, whatever commands it runs. -/
def Obligations.HostKeepsInvariant : Prop :=
  ∀ (r : HostRequest) (s t : State) (reply : HostReply), Inv s → serveHost r s = .ok (t, reply) → Inv t

/-- 10_state R29, R31, 70_reset_and_hazards R120: what `H`, `COUNTER`, `FILL` and `BUF` hold outside ABSORBING (after reset,
after FINALIZE) can never be observed: two states equal but for it stay so under every step and under every host
transaction, and answer every host transaction alike, refusals included (log entries 11 and 16). -/
def Obligations.LeftoversCannotBeObserved : Prop :=
  (∀ s t s' t' : State, SameView s t → step s = .next s' → step t = .next t' → SameView s' t') ∧
  (∀ (s t : State) (r : HostRequest), SameView s t →
    (serveHost r s).map (·.2) = (serveHost r t).map (·.2)) ∧
  (∀ (s t s' t' : State) (r : HostRequest) (a b : HostReply), SameView s t →
    serveHost r s = .ok (s', a) → serveHost r t = .ok (t', b) → SameView s' t') ∧
  (∀ j k : Nat, SameView (State.afterReset j) (State.afterReset k))

/-- 42_finalize, the padded message, over every partition of every message: when the host has placed INIT, one UPDATE per
span and FINALIZE on CMD and the spans on DIN, then from every state, whatever ran before, as many steps take them all,
the blocks sent are exactly those of `P(M)`, DIGEST is the serialisation of `IV` folded over them, the phase is CONSUMED and
no error is raised. Messages of 2^61 bytes and more are covered with the length field modulo 2^64
(70_reset_and_hazards R127). That all words and spans can wait on the ports at once is the model's choice (log entry 4). -/
def Obligations.HashRunSendsPaddedMessage : Prop :=
  ∀ (s : State) (spans : List (List Byte)) (moreWords : List CmdWord) (moreBytes : List Byte),
    (∀ span ∈ spans, span.length < lenBound) →
    s.cmd = (hashCommands spans).map encode ++ moreWords → s.din = spans.flatten ++ moreBytes →
    ∃ t : State, Host.Core.run core (spans.length + 2) s = .next t ∧
      blockTrace t.dp.trace = blockTrace s.dp.trace ++ paddedMessage spans.flatten ∧
      t.dp.digest.toList =
        digestBytes (compressN Config.algorithm Config.algorithm.iv (paddedMessage spans.flatten)) ∧
      t.phase = .consumed ∧ t.cmd = moreWords ∧ t.din = moreBytes ∧ SameRest s t

/-- Writes of the host that run no command. 70_reset_and_hazards R126: the word of an UPDATE whose payload is not complete
changes nothing but CMD, and a byte that does not complete it nothing but DIN, where bytes stand in the order sent. That the CMD
transaction of an UPDATE ends while its payload is missing is read by inference (log entry 19), and so is it that an UPDATE
that will be refused waits too (log entry 6). 60_exceptions R116, 93 U5: a word sent while another command stands on CMD is
refused. That a byte sent while nothing waits is kept for the next UPDATE is the model's choice (log entry 4): the spec has
payload bytes follow their word (30_encoding R55). -/
def Obligations.HostWritesThatRunNothing : Prop :=
  (∀ (s : State) (w : CmdWord) (len : Nat), s.cmd = [] → decode w = .ok (.update len) → s.din.length < len →
    serveHost (.writeCmd w) s = .ok ({ s with cmd := [w] }, .nothing)) ∧
  (∀ (s : State) (b : Byte) (w : CmdWord) (rest : List CmdWord) (len : Nat), s.cmd = w :: rest →
    decode w = .ok (.update len) → s.din.length + 1 < len →
    serveHost (.writeDin b) s = .ok ({ s with din := s.din ++ [b] }, .nothing)) ∧
  (∀ (s : State) (w : CmdWord), s.cmd ≠ [] → serveHost (.writeCmd w) s = .error (.commandInProgress w)) ∧
  (∀ (s : State) (b : Byte), s.cmd = [] →
    serveHost (.writeDin b) s = .ok ({ s with din := s.din ++ [b] }, .nothing))

/-- 20_memory R50, 70_reset_and_hazards R126: with no command in progress a word sent on CMD is the next command and runs in
that transaction; an UPDATE that waits for one byte runs in the transaction of that byte and leaves both ports empty. That the
CMD transaction of an UPDATE ends while its payload is missing is read by inference (log entry 19). -/
def Obligations.CommandRunsInItsTransaction : Prop :=
  (∀ (s : State) (w : CmdWord), s.cmd = [] →
    ∃ t, serveHost (.writeCmd w) s = .ok (t, .nothing) ∧ step { s with cmd := [w] } = .next t) ∧
  (∀ (s : State) (w : CmdWord) (b : Byte), s.cmd = [w] → decode w = .ok (.update (s.din.length + 1)) →
    ∃ t, serveHost (.writeDin b) s = .ok (t, .nothing) ∧
      exec (.update (s.din.length + 1)) { s with din := s.din ++ [b] } = .next t ∧ t.cmd = [] ∧ t.din = [])

/-- 20_memory R48, R50: when a transaction of the host has ended, no command that could run waits, so a read after it sees all
effects of every command that has been sent whole; and at most one command is in progress if at most one was before
(70_reset_and_hazards R124). It holds at reset. That an UPDATE waits outside any transaction for its payload is read by
inference (log entry 19). -/
def Obligations.HostLeavesNoCommandToRun : Prop :=
  Settled State.reset ∧
  ∀ (r : HostRequest) (s t : State) (reply : HostReply), Settled s → serveHost r s = .ok (t, reply) →
    Settled t ∧ step t = .next t ∧ (s.cmd.length ≤ 1 → t.cmd.length ≤ 1)

/-- 30_encoding R59, 20_memory R47, R50: commands sent one after the other, each word followed by exactly its payload, on empty
ports: the state is the one that as many steps leave when all of them stand on the ports at once, and both ports are empty.
That they can all stand there at once is the model's choice, a run's bookkeeping (log entry 4, 10_state R24), and that an
UPDATE runs in the transaction of its last byte is read by inference (log entry 19). -/
def Obligations.HostTrafficRunsItsCommands : Prop :=
  ∀ (us : List IssuedCommand) (s : State), s.cmd = [] → s.din = [] →
    (∀ u ∈ us, payloadLength u.word = u.payload.length) →
    ∃ t : State, serveAll (hostTraffic us) s = .ok t ∧
      Host.Core.run core us.length (issueCommands us s) = .next t ∧ t.cmd = [] ∧ t.din = []

/-- 42_finalize, the padded message, as the host sees it: from every state with empty ports, when the host has sent INIT, an
UPDATE with its bytes per span, and FINALIZE, the blocks sent are those of `P(M)`, DIGEST is the serialisation of `IV` folded
over them, the phase is CONSUMED and no error is raised (length field modulo 2^64, 70_reset_and_hazards R127). -/
def Obligations.HostHashLeavesDigest : Prop :=
  ∀ (s : State) (spans : List (List Byte)), s.cmd = [] → s.din = [] → (∀ span ∈ spans, span.length < lenBound) →
    ∃ t : State, serveAll (hostTraffic (hashTraffic spans)) s = .ok t ∧
      blockTrace t.dp.trace = blockTrace s.dp.trace ++ paddedMessage spans.flatten ∧
      t.dp.digest.toList =
        digestBytes (compressN Config.algorithm Config.algorithm.iv (paddedMessage spans.flatten)) ∧
      t.phase = .consumed ∧ t.cmd = [] ∧ t.din = [] ∧ SameRest s t
end

