-- ==== Sys2Proof/Laws/State.lean ====
section
/-! SUPPORT. One lemma per field per update of the state: later proofs rewrite with these and unfold no record update. -/

namespace Sys2Proof.Machine

/-! Ending a command. -/

@[simp] theorem retire_dp (s : State) : (retire s).dp = s.dp := rfl
@[simp] theorem retire_phase (s : State) : (retire s).phase = s.phase := rfl
@[simp] theorem retire_errIllegal (s : State) : (retire s).errIllegal = s.errIllegal := rfl
@[simp] theorem retire_errUpdatePhase (s : State) : (retire s).errUpdatePhase = s.errUpdatePhase := rfl
@[simp] theorem retire_errFinalizePhase (s : State) : (retire s).errFinalizePhase = s.errFinalizePhase := rfl
@[simp] theorem retire_cmd (s : State) : (retire s).cmd = s.cmd.tail := rfl
@[simp] theorem retire_din (s : State) : (retire s).din = s.din := rfl
@[simp] theorem retire_epoch (s : State) : (retire s).epoch = s.epoch := rfl

/-! Consuming payload. -/

@[simp] theorem consumeSpan_dp (len : Nat) (s : State) : (consumeSpan len s).dp = s.dp := rfl
@[simp] theorem consumeSpan_phase (len : Nat) (s : State) : (consumeSpan len s).phase = s.phase := rfl
@[simp] theorem consumeSpan_errIllegal (len : Nat) (s : State) : (consumeSpan len s).errIllegal = s.errIllegal := rfl
@[simp] theorem consumeSpan_errUpdatePhase (len : Nat) (s : State) :
    (consumeSpan len s).errUpdatePhase = s.errUpdatePhase := rfl
@[simp] theorem consumeSpan_errFinalizePhase (len : Nat) (s : State) :
    (consumeSpan len s).errFinalizePhase = s.errFinalizePhase := rfl
@[simp] theorem consumeSpan_cmd (len : Nat) (s : State) : (consumeSpan len s).cmd = s.cmd := rfl
@[simp] theorem consumeSpan_din (len : Nat) (s : State) : (consumeSpan len s).din = s.din.drop len := rfl
@[simp] theorem consumeSpan_epoch (len : Nat) (s : State) : (consumeSpan len s).epoch = s.epoch := rfl

/-! Setting an error bit: one lemma per field, the error bits per cause. -/

@[simp] theorem setErrorBit_dp (c : ErrorCause) (s : State) : (setErrorBit c s).dp = s.dp := by cases c <;> rfl
@[simp] theorem setErrorBit_phase (c : ErrorCause) (s : State) :
    (setErrorBit c s).phase = s.phase := by cases c <;> rfl
@[simp] theorem setErrorBit_cmd (c : ErrorCause) (s : State) : (setErrorBit c s).cmd = s.cmd := by cases c <;> rfl
@[simp] theorem setErrorBit_din (c : ErrorCause) (s : State) : (setErrorBit c s).din = s.din := by cases c <;> rfl
@[simp] theorem setErrorBit_epoch (c : ErrorCause) (s : State) :
    (setErrorBit c s).epoch = s.epoch := by cases c <;> rfl
@[simp] theorem setErrorBit_illegalCommand_errIllegal (s : State) :
    (setErrorBit .illegalCommand s).errIllegal = true := rfl
@[simp] theorem setErrorBit_illegalCommand_errUpdatePhase (s : State) :
    (setErrorBit .illegalCommand s).errUpdatePhase = s.errUpdatePhase := rfl
@[simp] theorem setErrorBit_illegalCommand_errFinalizePhase (s : State) :
    (setErrorBit .illegalCommand s).errFinalizePhase = s.errFinalizePhase := rfl
@[simp] theorem setErrorBit_updatePhase_errIllegal (len : Nat) (s : State) :
    (setErrorBit (.updatePhase len) s).errIllegal = s.errIllegal := rfl
@[simp] theorem setErrorBit_updatePhase_errUpdatePhase (len : Nat) (s : State) :
    (setErrorBit (.updatePhase len) s).errUpdatePhase = true := rfl
@[simp] theorem setErrorBit_updatePhase_errFinalizePhase (len : Nat) (s : State) :
    (setErrorBit (.updatePhase len) s).errFinalizePhase = s.errFinalizePhase := rfl
@[simp] theorem setErrorBit_finalizePhase_errIllegal (s : State) :
    (setErrorBit .finalizePhase s).errIllegal = s.errIllegal := rfl
@[simp] theorem setErrorBit_finalizePhase_errUpdatePhase (s : State) :
    (setErrorBit .finalizePhase s).errUpdatePhase = s.errUpdatePhase := rfl
@[simp] theorem setErrorBit_finalizePhase_errFinalizePhase (s : State) :
    (setErrorBit .finalizePhase s).errFinalizePhase = true := rfl

/-! Raising an error (60_exceptions R110): what it leaves and what it changes. -/

@[simp] theorem raiseError_dp (c : ErrorCause) (s : State) : (raiseError c s).dp = s.dp := by cases c <;> rfl
@[simp] theorem raiseError_phase (c : ErrorCause) (s : State) : (raiseError c s).phase = s.phase := by cases c <;> rfl
@[simp] theorem raiseError_cmd (c : ErrorCause) (s : State) : (raiseError c s).cmd = s.cmd.tail := by cases c <;> rfl
@[simp] theorem raiseError_din (c : ErrorCause) (s : State) :
    (raiseError c s).din = s.din.drop (drainedBytes c) := by cases c <;> rfl
@[simp] theorem raiseError_epoch (c : ErrorCause) (s : State) : (raiseError c s).epoch = s.epoch := by cases c <;> rfl
@[simp] theorem raiseError_illegalCommand_errIllegal (s : State) :
    (raiseError .illegalCommand s).errIllegal = true := rfl
@[simp] theorem raiseError_illegalCommand_errUpdatePhase (s : State) :
    (raiseError .illegalCommand s).errUpdatePhase = s.errUpdatePhase := rfl
@[simp] theorem raiseError_illegalCommand_errFinalizePhase (s : State) :
    (raiseError .illegalCommand s).errFinalizePhase = s.errFinalizePhase := rfl
@[simp] theorem raiseError_updatePhase_errIllegal (len : Nat) (s : State) :
    (raiseError (.updatePhase len) s).errIllegal = s.errIllegal := rfl
@[simp] theorem raiseError_updatePhase_errUpdatePhase (len : Nat) (s : State) :
    (raiseError (.updatePhase len) s).errUpdatePhase = true := rfl
@[simp] theorem raiseError_updatePhase_errFinalizePhase (len : Nat) (s : State) :
    (raiseError (.updatePhase len) s).errFinalizePhase = s.errFinalizePhase := rfl
@[simp] theorem raiseError_finalizePhase_errIllegal (s : State) :
    (raiseError .finalizePhase s).errIllegal = s.errIllegal := rfl
@[simp] theorem raiseError_finalizePhase_errUpdatePhase (s : State) :
    (raiseError .finalizePhase s).errUpdatePhase = s.errUpdatePhase := rfl
@[simp] theorem raiseError_finalizePhase_errFinalizePhase (s : State) :
    (raiseError .finalizePhase s).errFinalizePhase = true := rfl

/-! The state after hardware reset number `k` (10_state R32). -/

@[simp] theorem afterReset_phase (k : Nat) : (State.afterReset k).phase = .uninit := rfl
@[simp] theorem afterReset_errIllegal (k : Nat) : (State.afterReset k).errIllegal = false := rfl
@[simp] theorem afterReset_errUpdatePhase (k : Nat) : (State.afterReset k).errUpdatePhase = false := rfl
@[simp] theorem afterReset_errFinalizePhase (k : Nat) : (State.afterReset k).errFinalizePhase = false := rfl
@[simp] theorem afterReset_cmd (k : Nat) : (State.afterReset k).cmd = [] := rfl
@[simp] theorem afterReset_din (k : Nat) : (State.afterReset k).din = [] := rfl
@[simp] theorem afterReset_epoch (k : Nat) : (State.afterReset k).epoch = k := rfl
@[simp] theorem afterReset_dp_h (k : Nat) : (State.afterReset k).dp.h = Config.unspecifiedH k := rfl
@[simp] theorem afterReset_dp_counter (k : Nat) : (State.afterReset k).dp.counter = Config.unspecifiedCounter k := rfl
@[simp] theorem afterReset_dp_buf (k : Nat) : (State.afterReset k).dp.buf = Config.unspecifiedBuf k := rfl
@[simp] theorem afterReset_dp_fill (k : Nat) : (State.afterReset k).dp.fill = Config.unspecifiedFill k := rfl
@[simp] theorem afterReset_dp_digest (k : Nat) :
    (State.afterReset k).dp.digest = Vector.replicate (4 * Config.numWords) 0 := rfl
@[simp] theorem afterReset_dp_trace (k : Nat) : (State.afterReset k).dp.trace = [] := rfl

/-! Placing a word on the ports. -/

@[simp] theorem placeWord_dp (w : CmdWord) (payload : Nat) (s : State) : (placeWord w payload s).dp = s.dp := rfl
@[simp] theorem placeWord_phase (w : CmdWord) (payload : Nat) (s : State) :
    (placeWord w payload s).phase = s.phase := rfl
@[simp] theorem placeWord_errIllegal (w : CmdWord) (payload : Nat) (s : State) :
    (placeWord w payload s).errIllegal = s.errIllegal := rfl
@[simp] theorem placeWord_errUpdatePhase (w : CmdWord) (payload : Nat) (s : State) :
    (placeWord w payload s).errUpdatePhase = s.errUpdatePhase := rfl
@[simp] theorem placeWord_errFinalizePhase (w : CmdWord) (payload : Nat) (s : State) :
    (placeWord w payload s).errFinalizePhase = s.errFinalizePhase := rfl
@[simp] theorem placeWord_cmd (w : CmdWord) (payload : Nat) (s : State) :
    (placeWord w payload s).cmd = w :: s.cmd := rfl
@[simp] theorem placeWord_din (w : CmdWord) (payload : Nat) (s : State) :
    (placeWord w payload s).din = s.din ++ zeros (payload - s.din.length) := rfl
@[simp] theorem placeWord_epoch (w : CmdWord) (payload : Nat) (s : State) :
    (placeWord w payload s).epoch = s.epoch := rfl

/-! Issuing commands. -/

@[simp] theorem issueCommands_dp (us : List IssuedCommand) (s : State) : (issueCommands us s).dp = s.dp := rfl
@[simp] theorem issueCommands_phase (us : List IssuedCommand) (s : State) :
    (issueCommands us s).phase = s.phase := rfl
@[simp] theorem issueCommands_errIllegal (us : List IssuedCommand) (s : State) :
    (issueCommands us s).errIllegal = s.errIllegal := rfl
@[simp] theorem issueCommands_errUpdatePhase (us : List IssuedCommand) (s : State) :
    (issueCommands us s).errUpdatePhase = s.errUpdatePhase := rfl
@[simp] theorem issueCommands_errFinalizePhase (us : List IssuedCommand) (s : State) :
    (issueCommands us s).errFinalizePhase = s.errFinalizePhase := rfl
@[simp] theorem issueCommands_cmd (us : List IssuedCommand) (s : State) :
    (issueCommands us s).cmd = s.cmd ++ us.map (·.word) := rfl
@[simp] theorem issueCommands_din (us : List IssuedCommand) (s : State) :
    (issueCommands us s).din = s.din ++ us.flatMap (·.payload) := rfl
@[simp] theorem issueCommands_epoch (us : List IssuedCommand) (s : State) :
    (issueCommands us s).epoch = s.epoch := rfl

/-! The request on port COMP. -/

@[simp] theorem comp_h {n : Nat} (A : Algorithm n) (blocks : List Byte) (dp : Datapath n) :
    (comp A blocks dp).h = compressN A dp.h blocks := rfl
@[simp] theorem comp_counter {n : Nat} (A : Algorithm n) (blocks : List Byte) (dp : Datapath n) :
    (comp A blocks dp).counter = dp.counter := rfl
@[simp] theorem comp_buf {n : Nat} (A : Algorithm n) (blocks : List Byte) (dp : Datapath n) :
    (comp A blocks dp).buf = dp.buf := rfl
@[simp] theorem comp_fill {n : Nat} (A : Algorithm n) (blocks : List Byte) (dp : Datapath n) :
    (comp A blocks dp).fill = dp.fill := rfl
@[simp] theorem comp_digest {n : Nat} (A : Algorithm n) (blocks : List Byte) (dp : Datapath n) :
    (comp A blocks dp).digest = dp.digest := rfl
@[simp] theorem comp_trace {n : Nat} (A : Algorithm n) (blocks : List Byte) (dp : Datapath n) :
    (comp A blocks dp).trace = dp.trace ++ [⟨blocks.length / 64, blocks⟩] := rfl

/-! INIT. -/

@[simp] theorem initDatapath_h {n : Nat} (A : Algorithm n) (dp : Datapath n) : (initDatapath A dp).h = A.iv := rfl
@[simp] theorem initDatapath_counter {n : Nat} (A : Algorithm n) (dp : Datapath n) :
    (initDatapath A dp).counter = 0 := rfl
@[simp] theorem initDatapath_buf {n : Nat} (A : Algorithm n) (dp : Datapath n) :
    (initDatapath A dp).buf = memWrite dp.buf 0 (zeros 64) := rfl
@[simp] theorem initDatapath_fill {n : Nat} (A : Algorithm n) (dp : Datapath n) : (initDatapath A dp).fill = 0 := rfl
@[simp] theorem initDatapath_digest {n : Nat} (A : Algorithm n) (dp : Datapath n) :
    (initDatapath A dp).digest = dp.digest := rfl
@[simp] theorem initDatapath_trace {n : Nat} (A : Algorithm n) (dp : Datapath n) :
    (initDatapath A dp).trace = dp.trace := rfl

/-! The steps of UPDATE. -/

@[simp] theorem addToCounter_h {n : Nat} (len : Nat) (dp : Datapath n) : (addToCounter len dp).h = dp.h := rfl
@[simp] theorem addToCounter_counter {n : Nat} (len : Nat) (dp : Datapath n) :
    (addToCounter len dp).counter = dp.counter + BitVec.ofNat 64 len := rfl
@[simp] theorem addToCounter_buf {n : Nat} (len : Nat) (dp : Datapath n) : (addToCounter len dp).buf = dp.buf := rfl
@[simp] theorem addToCounter_fill {n : Nat} (len : Nat) (dp : Datapath n) :
    (addToCounter len dp).fill = dp.fill := rfl
@[simp] theorem addToCounter_digest {n : Nat} (len : Nat) (dp : Datapath n) :
    (addToCounter len dp).digest = dp.digest := rfl
@[simp] theorem addToCounter_trace {n : Nat} (len : Nat) (dp : Datapath n) :
    (addToCounter len dp).trace = dp.trace := rfl
@[simp] theorem appendSpan_h {n : Nat} (span : List Byte) (dp : Datapath n) : (appendSpan span dp).h = dp.h := rfl
@[simp] theorem appendSpan_counter {n : Nat} (span : List Byte) (dp : Datapath n) :
    (appendSpan span dp).counter = dp.counter := rfl
@[simp] theorem appendSpan_buf {n : Nat} (span : List Byte) (dp : Datapath n) :
    (appendSpan span dp).buf = memWrite dp.buf dp.fill.toNat span := rfl
@[simp] theorem appendSpan_fill {n : Nat} (span : List Byte) (dp : Datapath n) :
    (appendSpan span dp).fill = BitVec.ofNat 6 (dp.fill.toNat + span.length) := rfl
@[simp] theorem appendSpan_digest {n : Nat} (span : List Byte) (dp : Datapath n) :
    (appendSpan span dp).digest = dp.digest := rfl
@[simp] theorem appendSpan_trace {n : Nat} (span : List Byte) (dp : Datapath n) :
    (appendSpan span dp).trace = dp.trace := rfl
@[simp] theorem fillBlock_h {n : Nat} (room : Nat) (span : List Byte) (dp : Datapath n) :
    (fillBlock room span dp).h = dp.h := rfl
@[simp] theorem fillBlock_counter {n : Nat} (room : Nat) (span : List Byte) (dp : Datapath n) :
    (fillBlock room span dp).counter = dp.counter := rfl
@[simp] theorem fillBlock_buf {n : Nat} (room : Nat) (span : List Byte) (dp : Datapath n) :
    (fillBlock room span dp).buf = memWrite dp.buf dp.fill.toNat (sliceBytes span 0 room) := rfl
@[simp] theorem fillBlock_fill {n : Nat} (room : Nat) (span : List Byte) (dp : Datapath n) :
    (fillBlock room span dp).fill = dp.fill := rfl
@[simp] theorem fillBlock_digest {n : Nat} (room : Nat) (span : List Byte) (dp : Datapath n) :
    (fillBlock room span dp).digest = dp.digest := rfl
@[simp] theorem fillBlock_trace {n : Nat} (room : Nat) (span : List Byte) (dp : Datapath n) :
    (fillBlock room span dp).trace = dp.trace := rfl
@[simp] theorem flushBlock_h {n : Nat} (A : Algorithm n) (dp : Datapath n) :
    (flushBlock A dp).h = compressN A dp.h (memRead dp.buf 0 64) := rfl
@[simp] theorem flushBlock_counter {n : Nat} (A : Algorithm n) (dp : Datapath n) :
    (flushBlock A dp).counter = dp.counter := rfl
@[simp] theorem flushBlock_buf {n : Nat} (A : Algorithm n) (dp : Datapath n) :
    (flushBlock A dp).buf = memWrite dp.buf 0 (zeros 64) := rfl
@[simp] theorem flushBlock_fill {n : Nat} (A : Algorithm n) (dp : Datapath n) : (flushBlock A dp).fill = 0 := rfl
@[simp] theorem flushBlock_digest {n : Nat} (A : Algorithm n) (dp : Datapath n) :
    (flushBlock A dp).digest = dp.digest := rfl
@[simp] theorem flushBlock_trace {n : Nat} (A : Algorithm n) (dp : Datapath n) :
    (flushBlock A dp).trace = dp.trace ++ [⟨(memRead dp.buf 0 64).length / 64, memRead dp.buf 0 64⟩] := rfl

/-! The steps of FINALIZE. -/

@[simp] theorem putPadByte_h {n : Nat} (dp : Datapath n) : (putPadByte dp).h = dp.h := rfl
@[simp] theorem putPadByte_counter {n : Nat} (dp : Datapath n) : (putPadByte dp).counter = dp.counter := rfl
@[simp] theorem putPadByte_buf {n : Nat} (dp : Datapath n) :
    (putPadByte dp).buf = memWrite dp.buf dp.fill.toNat [0x80] := rfl
@[simp] theorem putPadByte_fill {n : Nat} (dp : Datapath n) : (putPadByte dp).fill = dp.fill := rfl
@[simp] theorem putPadByte_digest {n : Nat} (dp : Datapath n) : (putPadByte dp).digest = dp.digest := rfl
@[simp] theorem putPadByte_trace {n : Nat} (dp : Datapath n) : (putPadByte dp).trace = dp.trace := rfl
@[simp] theorem padSingle_counter {n : Nat} (A : Algorithm n) (p : Nat) (bits : BitVec 64) (dp : Datapath n) :
    (padSingle A p bits dp).counter = dp.counter := rfl
@[simp] theorem padSingle_buf {n : Nat} (A : Algorithm n) (p : Nat) (bits : BitVec 64) (dp : Datapath n) :
    (padSingle A p bits dp).buf = memWrite (memWrite dp.buf p (zeros (56 - p))) 56 (be64 bits) := rfl
@[simp] theorem padSingle_fill {n : Nat} (A : Algorithm n) (p : Nat) (bits : BitVec 64) (dp : Datapath n) :
    (padSingle A p bits dp).fill = dp.fill := rfl
@[simp] theorem padSingle_digest {n : Nat} (A : Algorithm n) (p : Nat) (bits : BitVec 64) (dp : Datapath n) :
    (padSingle A p bits dp).digest = dp.digest := rfl
@[simp] theorem padDouble_counter {n : Nat} (A : Algorithm n) (bits : BitVec 64) (dp : Datapath n) :
    (padDouble A bits dp).counter = dp.counter := rfl
@[simp] theorem padDouble_buf {n : Nat} (A : Algorithm n) (bits : BitVec 64) (dp : Datapath n) :
    (padDouble A bits dp).buf = dp.buf := rfl
@[simp] theorem padDouble_fill {n : Nat} (A : Algorithm n) (bits : BitVec 64) (dp : Datapath n) :
    (padDouble A bits dp).fill = dp.fill := rfl
@[simp] theorem padDouble_digest {n : Nat} (A : Algorithm n) (bits : BitVec 64) (dp : Datapath n) :
    (padDouble A bits dp).digest = dp.digest := rfl
@[simp] theorem writeDigest_h {n : Nat} (dp : Datapath n) : (writeDigest dp).h = dp.h := rfl
@[simp] theorem writeDigest_counter {n : Nat} (dp : Datapath n) : (writeDigest dp).counter = dp.counter := rfl
@[simp] theorem writeDigest_buf {n : Nat} (dp : Datapath n) : (writeDigest dp).buf = dp.buf := rfl
@[simp] theorem writeDigest_fill {n : Nat} (dp : Datapath n) : (writeDigest dp).fill = dp.fill := rfl
@[simp] theorem writeDigest_digest {n : Nat} (dp : Datapath n) :
    (writeDigest dp).digest = memWrite dp.digest 0 (digestBytes dp.h) := rfl
@[simp] theorem writeDigest_trace {n : Nat} (dp : Datapath n) : (writeDigest dp).trace = dp.trace := rfl

/-- Two datapaths with equal fields are equal. -/
theorem datapath_eq {n : Nat} {a b : Datapath n} (h : a.h = b.h) (counter : a.counter = b.counter) (buf : a.buf = b.buf)
    (fill : a.fill = b.fill) (digest : a.digest = b.digest) (trace : a.trace = b.trace) : a = b := by
  cases a; cases b; simp_all

end Sys2Proof.Machine
end

