-- ==== Sys2Proof/Laws/Bytes.lean ====
section
/-! SUPPORT. What MemRead, MemWrite and the serialisations give, in terms of take, drop and append. -/

namespace Sys2Proof.Machine

@[simp] theorem zeros_length (n : Nat) : (zeros n).length = n := by simp [zeros]
@[simp] theorem zeros_zero : zeros 0 = [] := rfl
@[simp] theorem zeros_take (n k : Nat) : (zeros n).take k = zeros (min k n) := by simp [zeros]
@[simp] theorem zeros_drop (n k : Nat) : (zeros n).drop k = zeros (n - k) := by simp [zeros]
theorem zeros_append (n k : Nat) : zeros n ++ zeros k = zeros (n + k) := by simp [zeros, List.replicate_append_replicate]

/-- A cleared space reads as zeros. -/
theorem replicate_toList (k : Nat) : (Vector.replicate k (0 : Byte)).toList = zeros k := by
  rw [Vector.toList_replicate]; rfl

@[simp] theorem be32_length (w : Word) : (be32 w).length = 4 := rfl
@[simp] theorem be64_length (v : BitVec 64) : (be64 v).length = 8 := rfl

/-- Laying nothing over a sequence leaves it. -/
@[simp] theorem overlay_nil (m : List Byte) (a : Nat) : overlay m a [] = m := by
  induction m generalizing a with
  | nil => cases a <;> rfl
  | cons x m ih => cases a with
    | zero => rfl
    | succ a => simp [overlay, ih]

/-- A write inside the space replaces exactly the bytes from `a` on (20_memory R37). -/
theorem overlay_eq (m : List Byte) (a : Nat) (v : List Byte) (fits : a + v.length ≤ m.length) :
    overlay m a v = m.take a ++ v ++ m.drop (a + v.length) := by
  induction m generalizing a v with
  | nil => simp at fits; simp [fits, overlay]
  | cons x m ih =>
    cases a with
    | zero =>
      cases v with
      | nil => simp
      | cons y v =>
        simp only [List.length_cons, Nat.zero_add, Nat.add_le_add_iff_right] at fits
        simp [overlay, ih 0 v (by omega)]
    | succ a =>
      simp only [List.length_cons] at fits
      simp [overlay, ih a v (by omega), Nat.add_right_comm a 1]

@[simp] theorem memWrite_nil {k : Nat} (m : Vector Byte k) (a : Nat) : memWrite m a [] = m := by
  apply Vector.toList_inj.mp; simp [memWrite, Vector.toList]

/-- `MemWrite` inside its space (20_memory R37). -/
theorem memWrite_toList {k : Nat} (m : Vector Byte k) (a : Nat) (v : List Byte) (fits : a + v.length ≤ k) :
    (memWrite m a v).toList = m.toList.take a ++ v ++ m.toList.drop (a + v.length) := by
  have : (memWrite m a v).toList = overlay m.toList a v := by simp [memWrite, Vector.toList]
  rw [this, overlay_eq _ _ _ (by simpa using fits)]

/-- A write of the whole space is its new content. -/
theorem memWrite_all {k : Nat} (m : Vector Byte k) (v : List Byte) (len : v.length = k) :
    (memWrite m 0 v).toList = v := by
  rw [memWrite_toList _ _ _ (by omega)]; simp [len]

/-- A read of the whole space. -/
@[simp] theorem memRead_all {k : Nat} (m : Vector Byte k) : memRead m 0 k = m.toList := by
  simp [memRead, sliceBytes]

/-- The length of a slice that lies inside its sequence (20_memory R36). -/
theorem sliceBytes_length (l : List Byte) (a n : Nat) (fits : a + n ≤ l.length) : (sliceBytes l a n).length = n := by
  simp [sliceBytes]; omega

/-- Clearing the buffer (40_init R65, 41_update R75). -/
@[simp] theorem memWrite_zeros64 (m : Vector Byte 64) : memWrite m 0 (zeros 64) = Vector.replicate 64 0 := by
  apply Vector.toList_inj.mp; rw [memWrite_all _ _ (by simp), replicate_toList]

/-- The digest has four bytes a word (00_scope R7). -/
@[simp] theorem digestBytes_length {n : Nat} (h : Vector Word n) : (digestBytes h).length = 4 * n := by
  have sized : ∀ l : List Word, (l.flatMap be32).length = 4 * l.length := by
    intro l
    induction l with
    | nil => rfl
    | cons w l ih => simp [ih]; omega
  simp [digestBytes, sized]

/-- DIGEST after the write of 42_finalize R90 is the serialisation, whatever it held. -/
theorem writeDigest_toList {n : Nat} (dp : Datapath n) : (writeDigest dp).digest.toList = digestBytes dp.h := by
  rw [writeDigest_digest, memWrite_all _ _ (by simp)]

/-- A block of at least 64 bytes is its first 64 (20_memory R38). -/
theorem toBlock_toList (l : List Byte) (len : 64 ≤ l.length) : (toBlock l).toList = l.take 64 :=
  memWrite_all _ _ (by simp; omega)

/-- A block is decided by the first 64 bytes alone. -/
theorem toBlock_append (l r : List Byte) (len : 64 ≤ l.length) : toBlock (l ++ r) = toBlock l := by
  simp [toBlock, List.take_append_of_le_length len]

end Sys2Proof.Machine
end

