-- ==== Sys2Proof/Laws/Compression.lean ====
section
/-! SUPPORT. The multi-block compression and the requests (43_compression_primitive R94 to R98). The fold law of R96 is an
obligation and is not proved here. -/

namespace Sys2Proof.Machine

@[simp] theorem compressBlocks_zero {n : Nat} (A : Algorithm n) (h : Vector Word n) (bytes : List Byte) :
    compressBlocks A 0 h bytes = h := rfl

theorem compressBlocks_succ {n : Nat} (A : Algorithm n) (k : Nat) (h : Vector Word n) (bytes : List Byte) :
    compressBlocks A (k + 1) h bytes = compressBlocks A k (A.compress1 h (toBlock bytes)) (bytes.drop 64) := rfl

/-- No block, no change. -/
@[simp] theorem compressN_nil {n : Nat} (A : Algorithm n) (h : Vector Word n) : compressN A h [] = h := rfl

@[simp] theorem blockTrace_nil : blockTrace [] = [] := rfl

@[simp] theorem blockTrace_append (a b : List CompRequest) : blockTrace (a ++ b) = blockTrace a ++ blockTrace b := by
  simp [blockTrace]

@[simp] theorem blockTrace_single (r : CompRequest) : blockTrace [r] = r.blocks := by simp [blockTrace]

/-- A request of `64 * k` bytes with `k` at least 1 is complete (43_compression_primitive R98). -/
theorem completeRequest_of_length (blocks : List Byte) (k : Nat) (pos : 1 ≤ k) (len : blocks.length = 64 * k) :
    CompleteRequest ⟨blocks.length / 64, blocks⟩ := by
  constructor <;> simp only [len] <;> omega

/-- What `comp` records: the old trace and one request more. -/
theorem mem_comp_trace {n : Nat} (A : Algorithm n) (blocks : List Byte) (dp : Datapath n) (r : CompRequest) :
    r ∈ (comp A blocks dp).trace ↔ r ∈ dp.trace ∨ r = ⟨blocks.length / 64, blocks⟩ := by
  simp

end Sys2Proof.Machine
end

