-- ==== Sys2Proof/Laws/Finalize.lean ====
section
/-! SUPPORT. The two paths of FINALIZE at the level of the registers (42_finalize R84 to R86). -/

namespace Sys2Proof.Machine

section
variable {n : Nat} (A : Algorithm n) (dp : Datapath n)

/-- The two ways an accepted FINALIZE runs (42_finalize R84). -/
theorem finish_cases :
    (dp.fill.toNat ≤ 55 ∧
      finish A dp = writeDigest (padSingle A (dp.fill.toNat + 1) (totalBits dp.counter) (putPadByte dp))) ∨
    (56 ≤ dp.fill.toNat ∧ finish A dp = writeDigest (padDouble A (totalBits dp.counter) (putPadByte dp))) := by
  by_cases single : dp.fill.toNat ≤ 55
  · left; exact ⟨single, by simp only [finish]; rw [if_pos (by omega)]⟩
  · right; exact ⟨by omega, by simp only [finish]; rw [if_neg (by omega)]⟩

/-- The pad byte goes to index `FILL` and to no other (42_finalize R83). -/
theorem putPadByte_toList :
    (putPadByte dp).buf.toList = dp.buf.toList.take dp.fill.toNat ++ [0x80] ++ dp.buf.toList.drop (dp.fill.toNat + 1) := by
  have := dp.fill.isLt
  rw [putPadByte_buf, memWrite_toList _ _ _ (by simp; omega)]
  simp

/-- The scratch of the two-block path (42_finalize R86). -/
theorem scratch_toList (buf : Vector Byte 64) (bits : BitVec 64) :
    (scratch buf bits).toList = buf.toList ++ zeros 56 ++ be64 bits := by
  have len : buf.toList.length = 64 := by simp
  simp only [scratch, memRead_all]
  have cleared : (memWrite (memWrite (Vector.replicate 128 0) 0 buf.toList) 64 (zeros 64)).toList =
      buf.toList ++ zeros 64 := by
    rw [memWrite_toList _ _ _ (by simp), memWrite_toList _ _ _ (by simp), replicate_toList]
    simp
  rw [memWrite_toList _ _ _ (by simp), cleared]
  rw [List.take_append, List.take_of_length_le (by omega), List.drop_eq_nil_of_le (by simp)]
  simp

@[simp] theorem padDouble_h (bits : BitVec 64) :
    (padDouble A bits dp).h = compressN A dp.h (dp.buf.toList ++ zeros 56 ++ be64 bits) := by
  simp only [padDouble, comp_h, memRead_all, scratch_toList]

@[simp] theorem padDouble_trace (bits : BitVec 64) :
    (padDouble A bits dp).trace = dp.trace ++ [⟨2, dp.buf.toList ++ zeros 56 ++ be64 bits⟩] := by
  simp only [padDouble, comp_trace, memRead_all, scratch_toList]
  simp

/-- The block of the single-block path: it is what the buffer holds after it (42_finalize R85). -/
theorem padSingle_toList (p : Nat) (bits : BitVec 64) (fits : p ≤ 56) :
    (padSingle A p bits dp).buf.toList = dp.buf.toList.take p ++ zeros (56 - p) ++ be64 bits := by
  have len : dp.buf.toList.length = 64 := by simp
  have front : (dp.buf.toList.take p ++ zeros (56 - p)).length = 56 := by simp; omega
  rw [padSingle_buf, memWrite_toList _ _ _ (by simp), memWrite_toList _ _ _ (by simp; omega), List.take_left' front,
    List.drop_eq_nil_of_le (by simp; omega)]
  simp

theorem padSingle_h (p : Nat) (bits : BitVec 64) :
    (padSingle A p bits dp).h = compressN A dp.h (padSingle A p bits dp).buf.toList := by
  simp [padSingle]

theorem padSingle_trace (p : Nat) (bits : BitVec 64) :
    (padSingle A p bits dp).trace = dp.trace ++ [⟨1, (padSingle A p bits dp).buf.toList⟩] := by
  simp [padSingle]

/-- FINALIZE leaves `COUNTER` (42_finalize R91). -/
@[simp] theorem finish_counter : (finish A dp).counter = dp.counter := by
  rcases finish_cases A dp with ⟨-, e⟩ | ⟨-, e⟩ <;> rw [e] <;> simp

/-- FINALIZE leaves `FILL` (42_finalize R91). -/
@[simp] theorem finish_fill : (finish A dp).fill = dp.fill := by
  rcases finish_cases A dp with ⟨-, e⟩ | ⟨-, e⟩ <;> rw [e] <;> simp

/-- DIGEST after FINALIZE serialises `H` after FINALIZE (42_finalize R89). -/
theorem finish_digest : (finish A dp).digest.toList = digestBytes (finish A dp).h := by
  rcases finish_cases A dp with ⟨-, e⟩ | ⟨-, e⟩ <;> rw [e, writeDigest_toList, writeDigest_h]

end

end Sys2Proof.Machine
end

