-- ==== Sys2Proof/Laws/PerInstr.lean ====
section
/-! SUPPORT. Facts about every command as syntax, one lemma per constructor. -/

namespace Sys2Proof.Laws

/-- The fields of an encoded well-formed command are its operation code and its length (30_encoding R51, R52, R53). -/
def EncodedFields.Statement (i : Instr) : Prop :=
  i.WellFormed → opcField (encode i) = i.opcode ∧ lenField (encode i) = i.lenOperand

theorem EncodedFields.init : EncodedFields.Statement .init := fun _ => by decide

theorem EncodedFields.finalize : EncodedFields.Statement .finalize := fun _ => by decide

theorem EncodedFields.update (len : Nat) : EncodedFields.Statement (.update len) := by
  intro wf
  have bound : len < 2 ^ 56 := of_decide_eq_true wf
  simp only [opcField, lenField, encode, Instr.opcode, Instr.lenOperand, BitVec.toNat_ofNat]
  omega

end Sys2Proof.Laws
end

