-- ==== Sys2Proof/Laws/Update.lean ====
section
/-! SUPPORT. Everything an accepted UPDATE can do to the registers, branch by branch (41_update R70). -/

namespace Sys2Proof.Machine

section
variable {n : Nat} (A : Algorithm n) (span : List Byte) (dp : Datapath n)

/-- S3 and S4 together: the remaining span splits into whole blocks, one request if there are any, and a rest that is
stored if it is not empty (41_update R76, R77). -/
theorem absorbFrom_cases (cursor : Nat) :
    absorbFrom A span cursor dp =
      if span.length - cursor < 64 then storeRemainder span cursor dp
      else
        storeRemainder span (cursor + 64 * wholeBlocks span cursor)
          (comp A (sliceBytes span cursor (64 * wholeBlocks span cursor)) dp) := by
  unfold absorbFrom compressWhole
  split
  · rename_i big; rw [if_neg (by omega)]
  · rename_i small
    rw [if_pos (by omega), show wholeBlocks span cursor = 0 by unfold wholeBlocks; omega]
    simp

/-- The three ways an accepted UPDATE runs (41_update R70, R73). -/
theorem absorb_cases :
    (dp.fill.toNat = 0 ∧ absorb A span dp = absorbFrom A span 0 (addToCounter span.length dp)) ∨
    (0 < dp.fill.toNat ∧ span.length < 64 - dp.fill.toNat ∧
      absorb A span dp = appendSpan span (addToCounter span.length dp)) ∨
    (0 < dp.fill.toNat ∧ 64 - dp.fill.toNat ≤ span.length ∧
      absorb A span dp = absorbFrom A span (64 - dp.fill.toNat)
        (flushBlock A (fillBlock (64 - dp.fill.toNat) span (addToCounter span.length dp)))) := by
  by_cases pos : 0 < dp.fill.toNat
  · right
    by_cases short : span.length < 64 - dp.fill.toNat
    · left; exact ⟨pos, short, by simp [absorb, pos, short]⟩
    · right; exact ⟨pos, by omega, by simp [absorb, pos, short]⟩
  · left; exact ⟨by omega, by simp [absorb, pos]⟩

@[simp] theorem storeRemainder_h (cursor : Nat) : (storeRemainder span cursor dp).h = dp.h := by
  unfold storeRemainder; split <;> rfl
@[simp] theorem storeRemainder_counter (cursor : Nat) : (storeRemainder span cursor dp).counter = dp.counter := by
  unfold storeRemainder; split <;> rfl
@[simp] theorem storeRemainder_digest (cursor : Nat) : (storeRemainder span cursor dp).digest = dp.digest := by
  unfold storeRemainder; split <;> rfl
@[simp] theorem storeRemainder_trace (cursor : Nat) : (storeRemainder span cursor dp).trace = dp.trace := by
  unfold storeRemainder; split <;> rfl

/-- S4 into an empty, cleared buffer: the rest of the span, then zeros (41_update R77). -/
theorem storeRemainder_buf (cursor : Nat) (small : span.length - cursor < 64) (empty : dp.fill = 0)
    (clear : dp.buf.toList = zeros 64) :
    (storeRemainder span cursor dp).buf.toList = span.drop cursor ++ zeros (64 - (span.length - cursor)) ∧
    (storeRemainder span cursor dp).fill.toNat = span.length - cursor := by
  unfold storeRemainder
  split
  · rename_i pos
    have len := sliceBytes_length span cursor (span.length - cursor) (by omega)
    refine ⟨?_, by simp; omega⟩
    rw [memWrite_toList _ _ _ (by omega), clear, len]
    simp [sliceBytes]
  · rename_i none
    have none : span.length ≤ cursor := by omega
    refine ⟨?_, by simp [empty]; omega⟩
    simp [clear, List.drop_eq_nil_of_le none, show span.length - cursor = 0 by omega]

@[simp] theorem absorb_digest : (absorb A span dp).digest = dp.digest := by
  rcases absorb_cases A span dp with ⟨-, e⟩ | ⟨-, -, e⟩ | ⟨-, -, e⟩ <;> rw [e]
  · rw [absorbFrom_cases]; split <;> simp
  · simp
  · rw [absorbFrom_cases]; split <;> simp

end

end Sys2Proof.Machine
end

