-- ==== Sys2Proof/Laws/Step.lean ====
section
/-! SUPPORT. Everything a command and a step can do: one inversion lemma each. Later proofs cite these and unfold neither
`exec` nor `step`. -/

namespace Sys2Proof.Machine

theorem execUpdate_holds (len : Nat) (s : State) (short : spanReady len s = false) : execUpdate len s = .next s := by
  simp [execUpdate, short]

/-- What UPDATE can do: hold, run, or be refused (41_update R69, 70_reset_and_hazards R126). -/
theorem execUpdate_cases (len : Nat) (s : State) :
    (spanReady len s = false ∧ execUpdate len s = .next s) ∨
    (spanReady len s = true ∧ s.phase = .absorbing ∧
      execUpdate len s =
        .next (retire (consumeSpan len { s with dp := absorb Config.algorithm (spanBytes len s) s.dp }))) ∨
    (spanReady len s = true ∧ s.phase ≠ .absorbing ∧ execUpdate len s = .next (raiseError (.updatePhase len) s)) := by
  cases ready : spanReady len s
  · left; exact ⟨rfl, execUpdate_holds len s ready⟩
  · right
    by_cases ph : s.phase = .absorbing
    · left; exact ⟨rfl, ph, by simp [execUpdate, ready, ph]⟩
    · right; exact ⟨rfl, ph, by simp [execUpdate, ready, ph]⟩

/-- What FINALIZE can do: run or be refused (42_finalize R81). -/
theorem execFinalize_cases (s : State) :
    (s.phase = .absorbing ∧
      execFinalize s = .next (retire { s with dp := finish Config.algorithm s.dp, phase := .consumed })) ∨
    (s.phase ≠ .absorbing ∧ execFinalize s = .next (raiseError .finalizePhase s)) := by
  by_cases ph : s.phase = .absorbing
  · left; exact ⟨ph, by simp [execFinalize, ph]⟩
  · right; exact ⟨ph, by simp [execFinalize, ph]⟩

/-- What a step can do, with the word it took (60_exceptions R109). -/
theorem step_cases (s : State) :
    (s.cmd = [] ∧ step s = .next s) ∨
    (∃ w rest e, s.cmd = w :: rest ∧ decode w = .error e ∧ step s = .next (raiseError .illegalCommand s)) ∨
    (∃ w rest i, s.cmd = w :: rest ∧ decode w = .ok i ∧ step s = exec i s) := by
  cases words : s.cmd with
  | nil => left; exact ⟨rfl, by simp [step, fetchWord, words]⟩
  | cons w rest =>
    right
    cases d : decode w with
    | error e => left; exact ⟨w, rest, e, rfl, d, by simp [step, fetchWord, words, d]⟩
    | ok i => right; exact ⟨w, rest, i, rfl, d, by simp [step, fetchWord, words, d]⟩

/-- What every step keeps, a run of commands keeps. -/
theorem runCommands_keeps {P : State → Prop} (keeps : ∀ s t, P s → step s = .next t → P t) (k : Nat) :
    ∀ s, P s → P (runCommands k s) := by
  induction k with
  | zero => intro s base; exact base
  | succ k ih =>
    intro s base
    unfold runCommands
    split
    · rename_i t stepped; exact ih t (keeps s t base stepped)
    · exact base
    · exact base

/-- A state that a step leaves is left by a run of commands. -/
theorem runCommands_of_held {s : State} (held : step s = .next s) (k : Nat) : runCommands k s = s := by
  induction k with
  | zero => rfl
  | succ k ih => rw [runCommands, held]; exact ih

theorem settle_of_held {s : State} (held : step s = .next s) : settle s = s := runCommands_of_held held _

/-- With nothing on CMD nothing is run (10_state R24). -/
theorem settle_of_nil {s : State} (none : s.cmd = []) : settle s = s := by simp [settle, none, runCommands]

/-- With one word on CMD the run is one step (20_memory R50). -/
theorem settle_of_single {s t : State} {w : CmdWord} (one : s.cmd = [w]) (stepped : step s = .next t) : settle s = t := by
  simp [settle, one, runCommands, stepped]

/-- What a host transaction can do to the state: bring a word or a byte and run what is complete, reset the engine, or
nothing (60_exceptions R116). -/
theorem serveHost_cases {r : HostRequest} {s t : State} {reply : HostReply} (served : serveHost r s = .ok (t, reply)) :
    (∃ w, r = .writeCmd w ∧ s.cmd = [] ∧ t = settle { s with cmd := [w] } ∧ reply = .nothing) ∨
    (∃ b, r = .writeDin b ∧ t = settle { s with din := s.din ++ [b] } ∧ reply = .nothing) ∨
    (r = .readStatus ∧ t = s ∧ reply = .status (statusWord s)) ∨
    (∃ i b, r = .readDigest i ∧ t = s ∧ digestByteAt i s = .ok b ∧ reply = .digestByte b) ∨
    (r = .reset ∧ t = hardwareReset s ∧ reply = .nothing) := by
  cases r with
  | writeCmd w =>
    by_cases free : s.cmd = []
    · simp only [serveHost, if_pos free] at served
      cases served
      exact .inl ⟨w, rfl, free, rfl, rfl⟩
    · simp [serveHost, free] at served
  | writeDin b => cases served; exact .inr (.inl ⟨b, rfl, rfl, rfl⟩)
  | readStatus => cases served; exact .inr (.inr (.inl ⟨rfl, rfl, rfl⟩))
  | readDigest i =>
    cases d : digestByteAt i s with
    | error e => simp [serveHost, d, Except.map] at served
    | ok b =>
      simp only [serveHost, d, Except.map] at served
      cases served
      exact .inr (.inr (.inr (.inl ⟨i, b, rfl, rfl, d, rfl⟩)))
  | reset => cases served; exact .inr (.inr (.inr (.inr ⟨rfl, rfl, rfl⟩)))

/-- A step leaves the model's reset number, so a reset after a step is the reset before it (70_reset_and_hazards R130). -/
theorem step_epoch {s t : State} (stepped : step s = .next t) : t.epoch = s.epoch := by
  rcases step_cases s with ⟨-, e⟩ | ⟨w, rest, e', -, -, e⟩ | ⟨w, rest, i, -, -, e⟩ <;> rw [e] at stepped
  · cases stepped; rfl
  · cases stepped; simp
  · cases i with
    | init => cases stepped; simp
    | update len =>
      change execUpdate len s = _ at stepped
      rcases execUpdate_cases len s with ⟨-, e⟩ | ⟨-, -, e⟩ | ⟨-, -, e⟩ <;> rw [e] at stepped <;> cases stepped <;> simp
    | finalize =>
      change execFinalize s = _ at stepped
      rcases execFinalize_cases s with ⟨-, e⟩ | ⟨-, e⟩ <;> rw [e] at stepped <;> cases stepped <;> simp

end Sys2Proof.Machine
end

