-- ==== Sys2Proof/Tests/Slice0.lean ====
section
/-! SUPPORT. Tests with results from the spec's own vectors (95_test_vectors), the WellFormed smoke tests, and for every
statement with hypotheses a witness that meets them. -/

namespace Sys2Proof.Tests

open Sys2Proof.Machine

/-! ## WellFormed -/

/-- 30_encoding R54: 2^56 bytes do not fit `LEN`. -/
theorem test_update_too_long_is_ill_formed : (Instr.update (2 ^ 56)).wellFormed = false := by decide

theorem test_longest_update_is_well_formed : (Instr.update (2 ^ 56 - 1)).wellFormed = true := by decide

/-! ## Decoding: words written out from 30_encoding R51 and R53 as `OPC` then `LEN` -/

theorem test_decode_init : decode ((0x01#8 ++ 0#56 : BitVec 64)) = .ok .init := by decide

theorem test_decode_update : decode ((0x02#8 ++ 3#56 : BitVec 64)) = .ok (.update 3) := by decide

theorem test_decode_finalize : decode ((0x03#8 ++ 0#56 : BitVec 64)) = .ok .finalize := by decide

/-- 95 section 3: all 8 bits of `OPC` count. -/
theorem test_decode_82_is_reserved : decode 0x8200000000000003 = .error (.reservedOpcode 0x82) := by decide

theorem test_encode_update_million : encode (.update 1000000) = 0x02000000000F4240 := by decide

theorem test_table_words :
    decodeTableWord 64 0x0100000000000000 = some .init ∧ decodeTableWord 64 0x0200000000000000 = some (.update 0) ∧
      decodeTableWord 64 0x0300000000000000 = some .finalize ∧ decodeTableWord 64 0 = none := by decide

/-! ## The toy instances of 95_test_vectors section 2 -/

/-- The 32-bit number whose `be32` stands at `b[4*j : 4*j+4)`. -/
def toyWord (b : List Byte) (j : Nat) : Word :=
  b.getD (4 * j) 0 ++ b.getD (4 * j + 1) 0 ++ b.getD (4 * j + 2) 0 ++ b.getD (4 * j + 3) 0

/-- TOY5 and TOY8 for `n` 5 and 8: a test fixture, no hardware. -/
def toy (n : Nat) : Algorithm n where
  iv := Vector.ofFn fun i => BitVec.ofNat 32 (0x11111111 * (i + 1))
  compress1 h b :=
    (List.range 16).foldl (fun h j =>
      h.setIfInBounds (j % n) (h.toList.getD (j % n) 0 * 33 + toyWord b.toList j + BitVec.ofNat 32 j)) h

/-- Registers with `fill` bytes 0x61 in the buffer, as after INIT and an UPDATE of them. -/
def toyDatapath (n fill : Nat) : Datapath n where
  h := (toy n).iv
  counter := BitVec.ofNat 64 fill
  buf := toBlock (List.replicate fill 0x61 ++ zeros (64 - fill))
  fill := BitVec.ofNat 6 fill
  digest := Vector.replicate _ 0
  trace := []

/-- 40_init R65, worked example: after INIT the registers hold these, whatever they held. -/
theorem test_init_toy5 :
    (initDatapath (toy 5) (toyDatapath 5 7)).h.toList =
        [0x11111111, 0x22222222, 0x33333333, 0x44444444, 0x55555555] ∧
      (initDatapath (toy 5) (toyDatapath 5 7)).counter = 0 ∧ (initDatapath (toy 5) (toyDatapath 5 7)).fill = 0 ∧
      (initDatapath (toy 5) (toyDatapath 5 7)).buf.toList = zeros 64 := by decide

/-- 95 section 4.2, row `f = 63`, `L = 129`: requests of 1 and 2 blocks, `FILL` 0, `COUNTER` 192. -/
theorem test_update_63_129 :
    ((absorb (toy 5) (List.replicate 129 0x61) (toyDatapath 5 63)).trace.map (·.nblk)) = [1, 2] ∧
      (absorb (toy 5) (List.replicate 129 0x61) (toyDatapath 5 63)).fill = 0 ∧
      (absorb (toy 5) (List.replicate 129 0x61) (toyDatapath 5 63)).counter = 192 := by decide +kernel

/-- 95 section 4.2, row `f = 56`, `L = 7`: the first branch of S2, no request, `FILL` 63. -/
theorem test_update_56_7 :
    (absorb (toy 5) (List.replicate 7 0x61) (toyDatapath 5 56)).trace = [] ∧
      (absorb (toy 5) (List.replicate 7 0x61) (toyDatapath 5 56)).fill = 63 := by decide

/-- 95 section 4.5, row `n = 55`, TOY5: the single-block path at its edge. -/
theorem test_finalize_55_toy5 :
    (finish (toy 5) (toyDatapath 5 55)).digest.toList =
      [0x5a, 0x59, 0x06, 0xca, 0xc7, 0xc7, 0xb8, 0x77, 0x94, 0x94, 0x80, 0x4b, 0x61, 0x61, 0x48, 0x3e, 0xcc, 0xcc,
       0xae, 0x92] := by decide +kernel

/-- 95 section 4.5, row `n = 56`, TOY8: the two-block path at its edge. -/
theorem test_finalize_56_toy8 :
    (finish (toy 8) (toyDatapath 8 56)).digest.toList =
      [0xcc, 0xcb, 0x83, 0x03, 0x33, 0x31, 0x45, 0x58, 0x99, 0x97, 0x07, 0xad, 0xff, 0xfc, 0xca, 0x02, 0x66, 0x62,
       0x8c, 0x57, 0xcc, 0xc8, 0x4e, 0xac, 0x73, 0xee, 0xd3, 0x60, 0x5a, 0x54, 0x97, 0x75] := by decide +kernel

/-- 95 section 4.3, the wrapped rows of the `total_bits` table. -/
theorem test_total_bits :
    be64 (totalBits 1000000) = [0, 0, 0, 0, 0, 0x7A, 0x12, 0] ∧
      be64 (totalBits (BitVec.ofNat 64 (2 ^ 61 - 1))) = [0xFF, 0xFF, 0xFF, 0xFF, 0xFF, 0xFF, 0xFF, 0xF8] ∧
      be64 (totalBits (BitVec.ofNat 64 (2 ^ 61 + 3))) = [0, 0, 0, 0, 0, 0, 0, 0x18] := by decide

/-! ## One step on the engine -/

/-- A small engine: `fill` bytes 0x61 in the buffer, all else as after INIT. -/
def sample (ph : Phase) (fill : Nat) (cmd : List CmdWord) (din : List Byte) : State where
  dp :=
    { h := Vector.replicate _ 0
      counter := BitVec.ofNat 64 fill
      buf := toBlock (List.replicate fill 0x61 ++ zeros (64 - fill))
      fill := BitVec.ofNat 6 fill
      digest := Vector.replicate _ 0
      trace := [] }
  phase := ph
  errIllegal := false
  errUpdatePhase := false
  errFinalizePhase := false
  cmd := cmd
  din := din
  epoch := 0

/-- What the host sees after one step: STATUS, and how much waits on CMD and DIN. -/
def view (o : Host.Outcome State Fault Refusal) : Option (BitVec 32 × Nat × Nat) :=
  match o with
  | .next s => some (statusWord s, s.cmd.length, s.din.length)
  | _ => none

/-- 95 section 6, rows 1 to 3: each error cause out of reset. -/
theorem test_errors_after_reset :
    view (step (sample .uninit 0 [0x0200000000000003] [0x61, 0x62, 0x63])) = some (0x08, 0, 0) ∧
      view (step (sample .uninit 0 [0x0300000000000000] [])) = some (0x10, 0, 0) ∧
      view (step (sample .uninit 0 [0x0000000000000000] [0x61])) = some (0x04, 0, 1) := by decide

/-- 95 section 6, rows 4 and 7: an illegal word keeps the phase, and decoding comes before the phase check. -/
theorem test_illegal_word_priority :
    view (step (sample .absorbing 3 [0x0100000000000005] [])) = some (0x05, 0, 0) ∧
      view (step (sample .consumed 3 [0x0300000000000001] [])) = some (0x06, 0, 0) := by decide

/-- 70_reset_and_hazards R126: with two of three payload bytes the engine holds, word and bytes stay. -/
theorem test_update_holds :
    view (step (sample .absorbing 0 [0x0200000000000003] [0x61, 0x62])) = some (0x01, 1, 2) := by decide

/-- 95 section 6, row 8: INIT with STATUS 0x1E leaves 0x1D. -/
theorem test_init_keeps_error_bits :
    view (step { sample .consumed 0 [0x0100000000000000] [] with
      errIllegal := true, errUpdatePhase := true, errFinalizePhase := true }) = some (0x1D, 0, 0) := by decide

/-- Each table word runs as the first command after reset; an UPDATE with its payload is refused in UNINIT (95 section
6). -/
theorem test_first_command_after_reset :
    view (step (State.reset.withFetchWord 64 0x0100000000000000)) = some (0x01, 0, 0) ∧
      view (step (State.reset.withFetchWord 64 0x0200000000000003)) = some (0x08, 0, 0) ∧
      view (step (State.reset.withFetchWord 64 0x0300000000000000)) = some (0x10, 0, 0) := by decide

/-- What the host sees after a list of transactions: STATUS, and how much waits on CMD and DIN. -/
def hostView (rs : List HostRequest) (s : State) : Option (BitVec 32 × Nat × Nat) :=
  match serveAll rs s with
  | .ok t => some (statusWord t, t.cmd.length, t.din.length)
  | .error _ => none

/-- 60_exceptions R116, 20_memory R48, R50: after the reset event STATUS is 0; an INIT sent right after it has run when its
transaction ends. -/
theorem test_init_after_reset_event :
    hostView [.reset] (sample .absorbing 3 [0x0300000000000000] [0x61]) = some (0, 0, 0) ∧
      hostView [.reset, .writeCmd 0x0100000000000000] (sample .absorbing 3 [0x0300000000000000] [0x61]) =
        some (0x01, 0, 0) := by decide

/-- 70_reset_and_hazards R126: a refused UPDATE of two bytes (95 section 6, row 1 with another length) shows nothing until its
second byte is there. -/
theorem test_update_runs_with_its_last_byte :
    hostView [.writeCmd 0x0200000000000002, .writeDin 0x61] (sample .consumed 0 [] []) = some (0x02, 1, 1) ∧
      hostView [.writeCmd 0x0200000000000002, .writeDin 0x61, .writeDin 0x62] (sample .consumed 0 [] []) =
        some (0x0A, 0, 0) := by decide

/-- 30_encoding R61: `UPDATE ""` is the empty span. Log entry 18, the model's choice: a bare `UPDATE` is no command. -/
theorem test_bare_update_is_no_command :
    (match assembleText ['U', 'P', 'D', 'A', 'T', 'E', ' ', quoteChar, quoteChar] with
      | .ok us => us
      | .error _ => []) = [⟨0x0200000000000000, []⟩] ∧
    (match assembleText ['U', 'P', 'D', 'A', 'T', 'E'] with
      | .ok _ => none
      | .error e => some e) = some AsmError.missingSpan := by decide

/-- Log entry 18, the model's choice: `UPDATE ";"` is the span of the one byte 0x3B. -/
theorem test_semicolon_in_string :
    (match assembleText ['U', 'P', 'D', 'A', 'T', 'E', ' ', quoteChar, ';', quoteChar] with
      | .ok us => us
      | .error _ => []) = [⟨0x0200000000000001, [0x3B]⟩] := by decide

/-- 30_encoding R63 and R61: `HASH 61*3 ++ "ab" ++ 63 ; x`. -/
theorem test_assemble_hash :
    (match assembleText
        ['H', 'A', 'S', 'H', ' ', '6', '1', '*', '3', ' ', '+', '+', ' ', quoteChar, 'a', 'b', quoteChar, '+', '+',
          '6', '3', ' ', ';', ' ', 'x'] with
      | .ok us => us
      | .error _ => []) =
      [⟨0x0100000000000000, []⟩, ⟨0x0200000000000006, [0x61, 0x61, 0x61, 0x61, 0x62, 0x63]⟩,
        ⟨0x0300000000000000, []⟩] := by decide

/-! ## Witnesses: every statement with hypotheses has a state and operands that meet them -/

/-- The engine has at least five chaining words (00_scope R5). -/
theorem five_le_numWords : 5 ≤ Config.numWords := by
  unfold Config.numWords; cases Config.width <;> decide

/-- The bytes above `FILL` are zeros in a sample state. -/
theorem sample_tailZero_56 (cmd : List CmdWord) (din : List Byte) : TailZero (sample .absorbing 56 cmd din).dp := by
  show (toBlock (List.replicate 56 0x61 ++ zeros 8)).toList.drop 56 = zeros 8
  decide

theorem sample_tailZero_3 (cmd : List CmdWord) (din : List Byte) : TailZero (sample .absorbing 3 cmd din).dp := by
  show (toBlock (List.replicate 3 0x61 ++ zeros 61)).toList.drop 3 = zeros 61
  decide

/-- The sample states with three bytes absorbed meet the invariant. -/
theorem sample_inv (cmd : List CmdWord) (din : List Byte) : Inv (sample .absorbing 3 cmd din) where
  tailZero _ := sample_tailZero_3 cmd din
  fillOfCounter _ := rfl
  digestConsumed h := by cases h
  digestUninit h := by cases h
  requests r hr := by cases hr

theorem witness_MemWriteSetsExactlyItsBytes :
    60 + ([1, 2, 3, 4] : List Byte).length ≤ 64 ∧ 3 < ([1, 2, 3, 4] : List Byte).length ∧ 59 < 60 ∧
      60 + ([1, 2, 3, 4] : List Byte).length ≤ 64 := by decide

theorem witness_MemReadAfterWrite :
    56 + (be64 0x18).length ≤ 64 ∧ 0 + 56 ≤ 64 ∧ (0 + 56 ≤ 56 ∨ 56 + (be64 0x18).length ≤ 0) := by decide

theorem witness_DigestDeterminesChainingWords :
    digestBytes (toy 5).iv = digestBytes (Vector.ofFn fun i : Fin 5 => BitVec.ofNat 32 (0x11111111 * (i + 1))) := rfl

/-- One word for each row of the map, and the word that differs from INIT in the last bit of `LEN` for no row. -/
theorem witness_OpcodeMapDecodes :
    (0x0100000000000000 : CmdWord) &&& 0xFFFFFFFFFFFFFFFF = 0x0100000000000000 ∧
      (0x02FFFFFFFFFFFFFF : CmdWord) &&& 0xFF00000000000000 = 0x0200000000000000 ∧
      (0x0300000000000000 : CmdWord) &&& 0xFFFFFFFFFFFFFFFF = 0x0300000000000000 ∧
      (0x0100000000000001 : CmdWord) &&& 0xFFFFFFFFFFFFFFFF ≠ 0x0100000000000000 ∧
      (0x0100000000000001 : CmdWord) &&& 0xFF00000000000000 ≠ 0x0200000000000000 ∧
      (0x0100000000000001 : CmdWord) &&& 0xFFFFFFFFFFFFFFFF ≠ 0x0300000000000000 := by decide

theorem witness_DecodeOfEncode : (Instr.update (2 ^ 56 - 1)).WellFormed := by decide

theorem witness_EncodeOfDecode : decode 0x02FFFFFFFFFFFFFF = .ok (.update (2 ^ 56 - 1)) := by decide

theorem witness_PayloadLengthOfWord :
    decode 0x02FFFFFFFFFFFFFF = .ok (.update (2 ^ 56 - 1)) ∧
      ∀ len, decode 0x0100000000000005 ≠ .ok (.update len) := by
  refine ⟨by decide, fun len h => ?_⟩
  have illegal : decode 0x0100000000000005 = .error (.initWithLen 5) := by decide
  rw [illegal] at h; cases h

/-- The empty span, a span of 55 bytes, and a line with the INIT word in it. -/
theorem witness_AssembledCommandsAreLegal :
    (spanPayload []).length < lenBound ∧ (spanPayload [.repeated 0x61 55]).length < lenBound ∧
      (spanPayload [.repeated 0x61 55]).length = 55 ∧
      ∃ us, assemble .init = .ok us ∧ ⟨0x0100000000000000, []⟩ ∈ us :=
  ⟨by decide, by decide, by decide, _, rfl, by decide⟩

/-- The shortest span that one word cannot carry. -/
theorem witness_AssembledCommandsAreLegal_tooLong :
    lenBound ≤ (spanPayload [.repeated 0x61 lenBound]).length := by
  simp [spanPayload, spanPartBytes]

theorem witness_StepRunsDecodedCommand :
    (sample .absorbing 3 [0x0200000000000001] [7]).cmd = 0x0200000000000001 :: [] ∧
      decode 0x0200000000000001 = .ok (.update 1) := ⟨rfl, by decide⟩

/-- Both kinds of illegal word. -/
theorem witness_IllegalWordRaisesCauseOne :
    (sample .absorbing 3 [0] []).cmd = 0 :: [] ∧
      (opcField 0 ≠ 0x01 ∧ opcField 0 ≠ 0x02 ∧ opcField 0 ≠ 0x03) ∧
      opcField 0x0300000000000001 = 0x03 ∧ lenField 0x0300000000000001 ≠ 0 :=
  ⟨rfl, by decide, by decide, by decide⟩

theorem witness_IdleEngineDoesNothing : (sample .absorbing 3 [] [1]).cmd = [] := rfl

/-- A command the reset can abandon, and the first and the last index certainly inside DIGEST. -/
theorem witness_HardwareResetWins :
    (∃ t, step (sample .absorbing 3 [0x0100000000000000] [1]) = .next t) ∧ 0 < 4 * Config.numWords ∧
      4 * Config.numWords - 1 < 4 * Config.numWords := by
  have words := five_le_numWords
  exact ⟨⟨_, rfl⟩, by omega, by omega⟩

theorem witness_InitFrame : ∃ t, exec .init (sample .consumed 3 [0x0100000000000000] []) = .next t := ⟨_, rfl⟩

/-- One byte short, in ABSORBING and in UNINIT. -/
theorem witness_UpdateHoldsUntilPayloadComplete :
    (sample .absorbing 3 [] [1, 2]).din.length < 3 ∧ (sample .uninit 0 [] []).din.length < 1 := by decide

/-- With the shortest span and with the counter about to wrap. -/
theorem witness_UpdateCountsBytes :
    (sample .absorbing 3 [] [1, 2]).phase = .absorbing ∧ 0 ≤ (sample .absorbing 3 [] [1, 2]).din.length ∧
      ({ (sample .absorbing 63 [] [1]).dp with counter := BitVec.allOnes 64 }).counter.toNat + 1 = 2 ^ 64 := by decide

/-- `FILL` 63 with the empty span, the edge of the branch, and `FILL` 1 with the longest span of it. -/
theorem witness_UpdateShortSpanAppends :
    (sample .absorbing 63 [] []).phase = .absorbing ∧ 0 ≤ (sample .absorbing 63 [] []).din.length ∧
      0 < (sample .absorbing 63 [] []).dp.fill.toNat ∧ 0 < 64 - (sample .absorbing 63 [] []).dp.fill.toNat ∧
      62 ≤ (sample .absorbing 1 [] (zeros 62)).din.length ∧
      62 < 64 - (sample .absorbing 1 [] (zeros 62)).dp.fill.toNat := by decide

theorem witness_UpdateExactFillFlushes :
    (sample .absorbing 63 [] [9]).phase = .absorbing ∧ 1 ≤ (sample .absorbing 63 [] [9]).din.length ∧
      0 < (sample .absorbing 63 [] [9]).dp.fill.toNat ∧
      1 = 64 - (sample .absorbing 63 [] [9]).dp.fill.toNat := by decide

/-- Below one block and at exactly one block. -/
theorem witness_UpdateEmptyBufferSendsWholeBlocks :
    (sample .absorbing 0 [] (zeros 64)).phase = .absorbing ∧ 63 ≤ (sample .absorbing 0 [] (zeros 64)).din.length ∧
      64 ≤ (sample .absorbing 0 [] (zeros 64)).din.length ∧ (sample .absorbing 0 [] (zeros 64)).dp.fill = 0 := by
  decide

theorem witness_UpdateClosedForm :
    (sample .absorbing 56 [] (zeros 80)).phase = .absorbing ∧ 80 ≤ (sample .absorbing 56 [] (zeros 80)).din.length ∧
      TailZero (sample .absorbing 56 [] (zeros 80)).dp := ⟨rfl, by decide, sample_tailZero_56 _ _⟩

theorem sample_tailZero_0 (cmd : List CmdWord) (din : List Byte) : TailZero (sample .absorbing 0 cmd din).dp := by
  show (toBlock (List.replicate 0 0x61 ++ zeros 64)).toList.drop 0 = zeros 64
  decide

/-- Operands that meet the premises in each of the four rows of the request table (41_update R78): no whole block (7 of the
8 bytes of room), an empty buffer, exactly one block, and one block more. -/
theorem witness_UpdateClosedForm_rows :
    TailZero (sample .absorbing 56 [] (zeros 72)).dp ∧ TailZero (sample .absorbing 0 [] (zeros 72)).dp ∧
      7 ≤ (zeros 72).length ∧ 64 ≤ (zeros 72).length ∧ 8 ≤ (zeros 72).length ∧ 72 ≤ (zeros 72).length ∧
      (56 + 7) / 64 = 0 ∧ (0 + 64) / 64 = 1 ∧ (56 + 8) / 64 = 1 ∧ (56 + 72) / 64 = 2 := by
  refine ⟨sample_tailZero_56 _ _, sample_tailZero_0 _ _, ?_⟩
  decide

theorem witness_UpdateStreamingEquivalence :
    (sample .absorbing 56 [] (zeros 80)).phase = .absorbing ∧
      8 + 72 ≤ (sample .absorbing 56 [] (zeros 80)).din.length ∧
      TailZero (sample .absorbing 56 [] (zeros 80)).dp := ⟨rfl, by decide, sample_tailZero_56 _ _⟩

/-- In both phases that refuse. -/
theorem witness_RefusedUpdateDrainsPayload :
    (sample .uninit 0 [] [1]).phase ≠ .absorbing ∧ 1 ≤ (sample .uninit 0 [] [1]).din.length ∧
      (sample .consumed 0 [] [1]).phase ≠ .absorbing := by decide

/-- A next state, and the premises of each clause of the frame. -/
theorem witness_UpdateFrame :
    (∃ t, exec (.update 1) (sample .absorbing 62 [] [1]) = .next t) ∧
      0 < (sample .absorbing 62 [] [1]).dp.fill.toNat ∧ 1 < 64 - (sample .absorbing 62 [] [1]).dp.fill.toNat ∧
      (sample .absorbing 0 [] [1]).dp.fill.toNat = 0 ∧ (sample .consumed 0 [] [1]).phase ≠ .absorbing := by
  refine ⟨?_, by decide, by decide, by decide, by decide⟩
  rcases execUpdate_cases 1 (sample .absorbing 62 [] [1]) with ⟨-, e⟩ | ⟨-, -, e⟩ | ⟨-, -, e⟩ <;> exact ⟨_, e⟩

theorem witness_UpdateIssuesAtMostTwoRequests :
    ∃ t, exec (.update 129) (sample .absorbing 63 [] (zeros 129)) = .next t := by
  rcases execUpdate_cases 129 (sample .absorbing 63 [] (zeros 129)) with ⟨-, e⟩ | ⟨-, -, e⟩ | ⟨-, -, e⟩ <;> exact ⟨_, e⟩

/-- Three absorbed bytes. -/
theorem witness_RegistersHoldMessage :
    ∃ s : State, s.phase = .absorbing ∧ 1 ≤ s.din.length ∧
      Absorbed Config.algorithm [] [0x61, 0x61, 0x61] s.dp := by
  refine ⟨{ sample .absorbing 3 [] [1] with
    dp := { (sample .absorbing 3 [] [1]).dp with h := Config.algorithm.iv } }, rfl, by decide, ?_⟩
  exact ⟨rfl, by decide, by decide, by simp [wholePart], by simp [wholePart, sample]⟩

/-- `FILL` at both ends of the single-block path. -/
theorem witness_FinalizeSingleBlock :
    (sample .absorbing 55 [] []).phase = .absorbing ∧ (sample .absorbing 55 [] []).dp.fill.toNat ≤ 55 ∧
      (sample .absorbing 0 [] []).dp.fill.toNat ≤ 55 := by decide

/-- `FILL` at both ends of the two-block path. -/
theorem witness_FinalizeTwoBlocks :
    (sample .absorbing 56 [] []).phase = .absorbing ∧ 56 ≤ (sample .absorbing 56 [] []).dp.fill.toNat ∧
      56 ≤ (sample .absorbing 63 [] []).dp.fill.toNat := by decide

theorem witness_FinalizeTwoBlocksPadWithZeros :
    (sample .absorbing 56 [] []).phase = .absorbing ∧ 56 ≤ (sample .absorbing 56 [] []).dp.fill.toNat ∧
      TailZero (sample .absorbing 56 [] []).dp := ⟨rfl, by decide, sample_tailZero_56 _ _⟩

theorem witness_FinalizeWritesWholeDigest :
    (sample .absorbing 3 [] []).phase = .absorbing ∧ 4 < Config.numWords := ⟨rfl, five_le_numWords⟩

theorem witness_RefusedFinalizeChangesNothing :
    (sample .uninit 0 [] []).phase ≠ .absorbing ∧ (sample .consumed 3 [] []).phase ≠ .absorbing := by decide

/-- A next state, and the premises of each clause of the frame. -/
theorem witness_FinalizeFrame :
    (∃ t, exec .finalize (sample .absorbing 56 [] []) = .next t) ∧ 56 ≤ (sample .absorbing 56 [] []).dp.fill.toNat ∧
      55 < (sample .absorbing 56 [] []).dp.fill.toNat ∧ (sample .uninit 56 [] []).phase ≠ .absorbing := by
  refine ⟨?_, by decide, by decide, by decide⟩
  rcases execFinalize_cases (sample .absorbing 56 [] []) with ⟨-, e⟩ | ⟨-, e⟩ <;> exact ⟨_, e⟩

theorem witness_CompressNFoldsBlocks : (zeros 128).length = 64 * 2 ∧ (zeros 0).length = 64 * 0 := by
  simp

/-- Messages on both sides of the padding boundary (95 section 1, item 3). -/
theorem witness_PaddedMessageLength :
    (zeros 55).length % 64 ≤ 55 ∧ 56 ≤ (zeros 56).length % 64 ∧ (zeros 55).length + 9 ≤ 64 * 1 ∧
      (zeros 56).length + 9 ≤ 64 * 2 := by decide

/-- Bits 5 and 31 of STATUS are in the reserved range. -/
theorem witness_StatusLayout : 5 ≤ 5 ∧ 5 ≤ 31 := by decide

/-- Set bits before a step, and a host transaction that resets and one that does not. -/
theorem witness_ErrorBitsAreSticky :
    (∃ s t : State, step s = .next t ∧ s.errIllegal = true ∧ s.errUpdatePhase = true ∧ s.errFinalizePhase = true) ∧
      (∃ s t : State, serveHost .reset s = .ok (t, .nothing) ∧ s.errIllegal = true) ∧
      ∃ s t : State, serveHost (.writeDin 0) s = .ok (t, .nothing) ∧ s.errIllegal = true :=
  ⟨⟨{ sample .uninit 0 [] [] with errIllegal := true, errUpdatePhase := true, errFinalizePhase := true }, _, rfl, rfl,
    rfl, rfl⟩, ⟨{ sample .uninit 0 [] [] with errIllegal := true }, _, rfl, rfl⟩,
    ⟨{ sample .uninit 0 [] [] with errIllegal := true }, _, rfl, rfl⟩⟩

/-- An accepted INIT on an error-free engine. -/
theorem witness_ErrorFreeStepTookAcceptedCommand :
    ∃ s t : State, s.cmd = 0x0100000000000000 :: [] ∧ step s = .next t ∧ errorFree t = true :=
  ⟨sample .uninit 0 [0x0100000000000000] [], _, rfl, rfl, rfl⟩

theorem witness_AtMostOneErrorPerCommand :
    ∃ s t : State, s.cmd = [0x0300000000000001] ∧ s.phase = .consumed ∧
      opcField 0x0300000000000001 = 0x03 ∧ lenField 0x0300000000000001 ≠ 0 ∧ step s = .next t := by
  exact ⟨sample .consumed 0 [0x0300000000000001] [], _, rfl, rfl, by decide, by decide, rfl⟩

/-- A transition of each kind the table lists: reset, idle, INIT, FINALIZE, a read, and a byte for a waiting UPDATE. -/
theorem witness_PhaseMachine :
    (∃ t, serveHost .reset (sample .absorbing 0 [] []) = .ok (t, .nothing)) ∧
      (∃ t, step (sample .absorbing 0 [] []) = .next t) ∧
      (view (step (sample .consumed 0 [0x0100000000000000] []))).isSome = true ∧
      (view (step (sample .absorbing 0 [0x0300000000000000] []))).isSome = true ∧
      (hostView [.readDigest 0] (sample .consumed 0 [] [])).isSome = true ∧
      (∀ w ∈ (sample .absorbing 0 [0x0200000000000002] []).cmd, ∃ len, decode w = .ok (.update len)) := by
  refine ⟨⟨_, rfl⟩, ⟨_, rfl⟩, by decide, by decide, ?_, ?_⟩
  · have words := five_le_numWords
    simp [hostView, serveAll, serveHost, digestByteAt, Except.map, show 0 < Config.numWords by omega]
  · intro w mem
    refine ⟨2, ?_⟩
    rw [List.mem_singleton.mp mem]
    decide

/-- A FINALIZE that changes DIGEST: the old digest differs from the new one in its first byte. -/
theorem witness_OnlyFinalizeAndResetWriteDigest_step :
    ∃ s t : State, step s = .next t ∧ t.dp.digest ≠ s.dp.digest := by
  let new : Vector Byte (4 * Config.numWords) :=
    (finish Config.algorithm (sample .absorbing 3 [] []).dp).digest
  let s : State := { sample .absorbing 3 [0x0300000000000000] [] with
    dp := { (sample .absorbing 3 [] []).dp with digest := new.map (· + 1) } }
  refine ⟨s, retire { s with dp := finish Config.algorithm s.dp, phase := .consumed }, ?_, ?_⟩
  · exact (execFinalize_cases s).elim (fun run => run.2) (fun refused => absurd rfl refused.1)
  · have words := five_le_numWords
    have whole : ∀ dp : Datapath Config.numWords,
        (finish Config.algorithm dp).digest.toList = digestBytes (finish Config.algorithm dp).h := by
      intro dp
      rcases finish_cases Config.algorithm dp with ⟨-, e⟩ | ⟨-, e⟩ <;> rw [e, writeDigest_toList, writeDigest_h]
    have sameH : (finish Config.algorithm s.dp).h = (finish Config.algorithm (sample .absorbing 3 [] []).dp).h := rfl
    have sameDigest : (finish Config.algorithm s.dp).digest = new :=
      Vector.toList_inj.mp ((whole _).trans ((congrArg digestBytes sameH).trans (whole _).symm))
    intro same
    have first := congrArg (fun v : Vector Byte (4 * Config.numWords) => v[0]?) (sameDigest.symm.trans same)
    have lt : 0 < 4 * Config.numWords := by omega
    simp [s, lt] at first

/-- A reset that clears a digest which is not zero. -/
theorem witness_OnlyFinalizeAndResetWriteDigest_reset :
    ∃ s t : State, serveHost .reset s = .ok (t, .nothing) ∧ t.dp.digest ≠ s.dp.digest := by
  refine ⟨{ sample .consumed 0 [] [] with
    dp := { (sample .consumed 0 [] []).dp with digest := Vector.replicate _ 1 } }, _, rfl, ?_⟩
  have words := five_le_numWords
  intro same
  have first := congrArg (fun v : Vector Byte (4 * Config.numWords) => v[0]?) same
  simp [hardwareReset, show 0 < Config.numWords by omega] at first

/-- The same INIT sent by the host, with no command in progress. -/
theorem witness_WorkingStateChangesOnlyByInitOutsideAbsorbing_host :
    ∃ s t : State, s.phase ≠ .absorbing ∧ s.cmd = [] ∧
      serveHost (.writeCmd 0x0100000000000000) s = .ok (t, .nothing) ∧ t.dp ≠ s.dp := by
  refine ⟨sample .consumed 3 [] [], _, by decide, rfl, rfl, ?_⟩
  intro same
  have counters := congrArg Datapath.counter same
  rw [settle_of_single (w := 0x0100000000000000) rfl rfl] at counters
  simp [sample] at counters

/-- An INIT in CONSUMED over a counter that is not 0. -/
theorem witness_WorkingStateChangesOnlyByInitOutsideAbsorbing :
    ∃ s t : State, s.phase ≠ .absorbing ∧ step s = .next t ∧ t.dp ≠ s.dp := by
  refine ⟨sample .consumed 3 [0x0100000000000000] [], _, by decide, rfl, ?_⟩
  intro same
  have counters := congrArg Datapath.counter same
  simp [sample] at counters

/-- The first index inside DIGEST, the last that is certainly inside, and the first outside. -/
theorem witness_HostReadsHaveNoSideEffect :
    0 < 4 * Config.numWords ∧ 19 < 4 * Config.numWords ∧ 4 * Config.numWords ≤ 4 * Config.numWords := by
  have words := five_le_numWords; omega

theorem witness_StepKeepsInvariant :
    ∃ t, Inv (sample .absorbing 3 [] []) ∧ step (sample .absorbing 3 [] []) = .next t := ⟨_, sample_inv _ _, rfl⟩

theorem witness_HostKeepsInvariant :
    Inv (sample .absorbing 3 [] []) ∧
      serveHost (.writeDin 7) (sample .absorbing 3 [] []) = .ok (sample .absorbing 3 [] [7], .nothing) :=
  ⟨sample_inv _ _, rfl⟩

/-- Two states that differ in `COUNTER` and `FILL` and look the same, a step and a host transaction from both. -/
theorem witness_LeftoversCannotBeObserved :
    ∃ s t s' t' s'' t'' : State, SameView s t ∧ s.dp ≠ t.dp ∧ step s = .next s' ∧ step t = .next t' ∧
      serveHost (.writeDin 1) s = .ok (s'', .nothing) ∧ serveHost (.writeDin 1) t = .ok (t'', .nothing) := by
  refine ⟨sample .consumed 3 [] [], sample .consumed 4 [] [], _, _, _, _, ?_, ?_, rfl, rfl, rfl, rfl⟩
  · exact ⟨rfl, rfl, rfl, rfl, rfl, rfl, rfl, rfl, fun h => by cases h⟩
  · intro same
    have counters := congrArg Datapath.counter same
    simp [sample] at counters

/-- A message of 120 bytes in three spans, 95 section 5, with a word and a byte behind it. -/
theorem witness_HashRunSendsPaddedMessage :
    ∃ s : State,
      (∀ span ∈ [zeros 3, zeros 61, zeros 56], span.length < lenBound) ∧
      s.cmd = (hashCommands [zeros 3, zeros 61, zeros 56]).map encode ++ [0x0100000000000000] ∧
      s.din = [zeros 3, zeros 61, zeros 56].flatten ++ [1] :=
  ⟨sample .uninit 0 _ _, by decide, rfl, rfl⟩

/-- An UPDATE that waits for its last bytes, and an engine with no command in progress. -/
theorem witness_HostWritesThatRunNothing :
    (sample .absorbing 0 [] []).cmd = [] ∧ decode 0x0200000000000003 = .ok (.update 3) ∧
      (sample .absorbing 0 [] [1, 2]).din.length < 3 ∧
      (sample .absorbing 0 [0x0200000000000003] [1]).cmd = 0x0200000000000003 :: [] ∧
      (sample .absorbing 0 [0x0200000000000003] [1]).din.length + 1 < 3 ∧
      (sample .absorbing 0 [0x0200000000000003] [1]).cmd ≠ [] := by
  exact ⟨rfl, by decide, by decide, rfl, by decide, by decide⟩

/-- A command sent while an UPDATE waits for its second byte is refused (60_exceptions R116, 93 U5). -/
theorem test_second_command_refused :
    (match serveHost (.writeCmd 0x0100000000000000) (sample .absorbing 0 [0x0200000000000002] [1]) with
      | .ok _ => none
      | .error e => some e) = some (Refusal.commandInProgress 0x0100000000000000) := by decide

theorem witness_CommandRunsInItsTransaction :
    (sample .absorbing 0 [] []).cmd = [] ∧
      (sample .absorbing 0 [0x0200000000000002] [1]).cmd = [0x0200000000000002] ∧
      decode 0x0200000000000002 = .ok (.update ((sample .absorbing 0 [0x0200000000000002] [1]).din.length + 1)) :=
  ⟨rfl, rfl, by decide⟩

theorem witness_HostLeavesNoCommandToRun :
    Settled (sample .absorbing 0 [] []) ∧
      ∃ t, serveHost (.writeCmd 0x0300000000000000) (sample .absorbing 0 [] []) = .ok (t, .nothing) := by
  refine ⟨?_, _, rfl⟩
  intro w rest words
  cases words

theorem witness_HostTrafficRunsItsCommands :
    (sample .consumed 0 [] []).cmd = [] ∧ (sample .consumed 0 [] []).din = [] ∧
      ∀ u ∈ hashTraffic [zeros 3, []], payloadLength u.word = u.payload.length := ⟨rfl, rfl, by decide⟩

theorem witness_HostHashLeavesDigest :
    (sample .consumed 0 [] []).cmd = [] ∧ (sample .consumed 0 [] []).din = [] ∧
      ∀ span ∈ [zeros 3, [], zeros 61], span.length < lenBound := ⟨rfl, rfl, by decide⟩

end Sys2Proof.Tests
end

/-! PROOFS. Bytes and serialisation: the byte values of `be32` and `be64` (00_scope R12). -/

section
namespace Sys2Proof.Machine

/-- The byte of a word from bit `i` up, as a number: what `be32` and `be64` list, one place at a time. -/
theorem toNat_byteAt {n : Nat} (w : BitVec n) (i : Nat) :
    (w.extractLsb' i 8).toNat = w.toNat / 2 ^ i % 2 ^ 8 := by
  rw [BitVec.extractLsb'_toNat, Nat.shiftRight_eq_div_pow]

/-- 00_scope R12: the bytes of `be32` by value, most significant first. -/
theorem be32_map_toNat (w : Word) :
    (be32 w).map BitVec.toNat =
      [w.toNat / 2 ^ 24 % 2 ^ 8, w.toNat / 2 ^ 16 % 2 ^ 8, w.toNat / 2 ^ 8 % 2 ^ 8, w.toNat % 2 ^ 8] := by
  simp only [be32, List.map_cons, List.map_nil, toNat_byteAt, pow_zero, Nat.div_one]

/-- 00_scope R12: the bytes of `be64` by value, most significant first. -/
theorem be64_map_toNat (v : BitVec 64) :
    (be64 v).map BitVec.toNat =
      [v.toNat / 2 ^ 56 % 2 ^ 8, v.toNat / 2 ^ 48 % 2 ^ 8, v.toNat / 2 ^ 40 % 2 ^ 8, v.toNat / 2 ^ 32 % 2 ^ 8,
       v.toNat / 2 ^ 24 % 2 ^ 8, v.toNat / 2 ^ 16 % 2 ^ 8, v.toNat / 2 ^ 8 % 2 ^ 8, v.toNat % 2 ^ 8] := by
  simp only [be64, List.map_cons, List.map_nil, toNat_byteAt, pow_zero, Nat.div_one]

/-- Settles O1, from the byte values of `be32` and `be64`; R12's two examples are evaluated. -/
theorem bigEndianSerialisation : Obligations.BigEndianSerialisation :=
  ⟨be32_map_toNat, be64_map_toNat, by decide, by decide⟩

end Sys2Proof.Machine
end

/-! PROOFS. The opcode map: match and mask as conditions on the two fields of a word (30_encoding R52, R53). -/

section
namespace Sys2Proof.Machine

/-- The mask of INIT and FINALIZE keeps the whole word (30_encoding R53). -/
theorem and_fullMask (w : CmdWord) : w &&& 0xFFFFFFFFFFFFFFFF = w := BitVec.and_allOnes

/-- The low 56 bits of a word are its `LEN` (30_encoding R52). -/
theorem toNat_and_lenMask (w : CmdWord) : (w &&& 0x00FFFFFFFFFFFFFF).toNat = lenField w := by
  rw [BitVec.toNat_and]
  exact Nat.and_two_pow_sub_one_eq_mod w.toNat 56

/-- The mask of UPDATE keeps `OPC` and clears `LEN` (30_encoding R52, R53). -/
theorem toNat_and_opcMask (w : CmdWord) : (w &&& 0xFF00000000000000).toNat = opcField w * 2 ^ 56 := by
  have mask : (0xFF00000000000000 : CmdWord) = BitVec.allOnes 64 <<< 56 := by decide
  have fits : w.toNat / 2 ^ 56 * 2 ^ 56 < 2 ^ 64 := by omega
  rw [mask, ← BitVec.shiftLeft_ushiftRight, BitVec.toNat_shiftLeft, BitVec.toNat_ushiftRight, Nat.shiftRight_eq_div_pow,
    Nat.shiftLeft_eq, Nat.mod_eq_of_lt fits, opcField]

/-- A word is its two fields (30_encoding R51, R52). -/
theorem word_eq_iff (w v : CmdWord) : w = v ↔ opcField w = opcField v ∧ lenField w = lenField v := by
  rw [← BitVec.toNat_inj, opcField, opcField, lenField, lenField]
  omega

/-- The row of INIT by fields (30_encoding R53). -/
theorem initRow_iff (w : CmdWord) :
    w &&& 0xFFFFFFFFFFFFFFFF = 0x0100000000000000 ↔ opcField w = 0x01 ∧ lenField w = 0 := by
  rw [and_fullMask]; exact word_eq_iff w 0x0100000000000000

/-- The row of UPDATE by fields: any `LEN` (30_encoding R53). -/
theorem updateRow_iff (w : CmdWord) : w &&& 0xFF00000000000000 = 0x0200000000000000 ↔ opcField w = 0x02 := by
  rw [← BitVec.toNat_inj, toNat_and_opcMask, show (0x0200000000000000 : CmdWord).toNat = 0x02 * 2 ^ 56 from rfl]
  omega

/-- The row of FINALIZE by fields (30_encoding R53). -/
theorem finalizeRow_iff (w : CmdWord) :
    w &&& 0xFFFFFFFFFFFFFFFF = 0x0300000000000000 ↔ opcField w = 0x03 ∧ lenField w = 0 := by
  rw [and_fullMask]; exact word_eq_iff w 0x0300000000000000

/-- 30_encoding R53, R56: `OPC` 0x01 with `LEN` 0 is INIT. -/
theorem decode_init {w : CmdWord} (opc : opcField w = 0x01) (len : lenField w = 0) : decode w = .ok .init := by
  simp [decode, opc, len]

/-- 30_encoding R53, R56: `OPC` 0x02 is UPDATE, whatever its `LEN`. -/
theorem decode_update {w : CmdWord} (opc : opcField w = 0x02) : decode w = .ok (.update (lenField w)) := by
  simp [decode, opc]

/-- 30_encoding R53, R56: `OPC` 0x03 with `LEN` 0 is FINALIZE. -/
theorem decode_finalize {w : CmdWord} (opc : opcField w = 0x03) (len : lenField w = 0) : decode w = .ok .finalize := by
  simp [decode, opc, len]

/-- 30_encoding R57, R58: a word outside the three rows is illegal, for its `LEN` or for its `OPC`. -/
theorem decode_illegal {w : CmdWord} (notInit : ¬(opcField w = 0x01 ∧ lenField w = 0)) (notUpdate : opcField w ≠ 0x02)
    (notFinalize : ¬(opcField w = 0x03 ∧ lenField w = 0)) : ∃ e, decode w = .error e := by
  by_cases one : opcField w = 0x01
  · have len : lenField w ≠ 0 := fun zero => notInit ⟨one, zero⟩
    exact ⟨.initWithLen (lenField w), by simp [decode, one, len]⟩
  · by_cases three : opcField w = 0x03
    · have len : lenField w ≠ 0 := fun zero => notFinalize ⟨three, zero⟩
      exact ⟨.finalizeWithLen (lenField w), by simp [decode, three, len]⟩
    · exact ⟨.reservedOpcode (opcField w), by simp [decode, one, notUpdate, three]⟩

/-- Settles O5: each row's match and mask is a condition on the word's fields, on which the decoder branches. -/
theorem opcodeMapDecodes : Obligations.OpcodeMapDecodes := by
  intro w
  rw [ne_eq, ne_eq, ne_eq, initRow_iff, updateRow_iff, finalizeRow_iff, toNat_and_lenMask]
  exact ⟨fun ⟨opc, len⟩ => decode_init opc len, decode_update, fun ⟨opc, len⟩ => decode_finalize opc len, decode_illegal⟩

end Sys2Proof.Machine
end

/-! PROOFS. The INIT command: its meaning, and the registers it leaves written out (40_init). -/

section
namespace Sys2Proof.Machine

/-- 40_init R65, R68: the meaning of INIT has no case in which it holds or is refused. -/
theorem exec_init (s : State) :
    exec .init s = .next (retire { s with dp := initDatapath Config.algorithm s.dp, phase := .absorbing }) := rfl

/-- 40_init R65, R67: the whole-buffer write of INIT leaves the cleared buffer, whatever `BUF` held. -/
theorem initDatapath_eq {n : Nat} (A : Algorithm n) (dp : Datapath n) :
    initDatapath A dp = { dp with h := A.iv, counter := 0, buf := Vector.replicate 64 0, fill := 0 } := by
  rw [initDatapath, memWrite_zeros64]

/-- Settles O17: INIT has one case, and the registers it leaves are those of `initDatapath_eq`. -/
theorem initSetsWorkingState : Obligations.InitSetsWorkingState := by
  intro s
  rw [exec_init, initDatapath_eq, retire]

end Sys2Proof.Machine
end

/-! PROOFS. The UPDATE command: its accepted case, what it counts, and the span that fits the room (41_update). -/

section
namespace Sys2Proof.Machine

/-- The payload of an UPDATE is present when DIN holds at least its length (70_reset_and_hazards R126). -/
theorem spanReady_iff (len : Nat) (s : State) : spanReady len s = true ↔ len ≤ s.din.length := decide_eq_true_iff

/-- The span of an UPDATE whose payload is present has the length the word gives (30_encoding R55). -/
theorem spanBytes_length {len : Nat} {s : State} (present : len ≤ s.din.length) : (spanBytes len s).length = len :=
  List.length_take_of_le present

/-- 41_update R69: in ABSORBING with the payload present, UPDATE runs on its span. -/
theorem exec_update_accepted {len : Nat} {s : State} (absorbing : s.phase = .absorbing) (present : len ≤ s.din.length) :
    exec (.update len) s =
      .next (retire (consumeSpan len { s with dp := absorb Config.algorithm (spanBytes len s) s.dp })) := by
  have ready : spanReady len s = true := (spanReady_iff len s).mpr present
  rcases execUpdate_cases len s with ⟨short, -⟩ | ⟨-, -, run⟩ | ⟨-, refused, -⟩
  · rw [ready] at short; contradiction
  · exact run
  · exact absurd absorbing refused

section
variable {n : Nat} (A : Algorithm n) (span : List Byte) (dp : Datapath n)

/-- S3 and S4 leave `COUNTER`: only S1 counts (41_update R72). -/
@[simp] theorem absorbFrom_counter (cursor : Nat) : (absorbFrom A span cursor dp).counter = dp.counter := by
  rw [absorbFrom_cases]; split <;> simp

/-- 41_update R72: every branch of an accepted UPDATE counts the whole span. -/
@[simp] theorem absorb_counter : (absorb A span dp).counter = dp.counter + BitVec.ofNat 64 span.length := by
  rcases absorb_cases A span dp with ⟨-, e⟩ | ⟨-, -, e⟩ | ⟨-, -, e⟩ <;> rw [e] <;> simp

variable {span dp}

/-- 41_update R74: a span shorter than the room of a non-empty buffer takes the first branch of S2. -/
theorem absorb_of_short (nonempty : 0 < dp.fill.toNat) (short : span.length < 64 - dp.fill.toNat) :
    absorb A span dp = appendSpan span (addToCounter span.length dp) := by
  rcases absorb_cases A span dp with ⟨empty, -⟩ | ⟨-, -, e⟩ | ⟨-, long, -⟩
  · omega
  · exact e
  · omega

/-- 41_update R74: a span that fits replaces the bytes of `BUF` from `FILL` on and no others. -/
theorem appendSpan_toList (fits : dp.fill.toNat + span.length ≤ 64) :
    (appendSpan span dp).buf.toList =
      dp.buf.toList.take dp.fill.toNat ++ span ++ dp.buf.toList.drop (dp.fill.toNat + span.length) :=
  memWrite_toList dp.buf dp.fill.toNat span fits

/-- 41_update R74: `FILL` grows by the span's length, without wrapping when the span is shorter than the room. -/
theorem appendSpan_fill_toNat (fits : dp.fill.toNat + span.length < 64) :
    (appendSpan span dp).fill.toNat = dp.fill.toNat + span.length := by
  rw [appendSpan_fill, BitVec.toNat_ofNat, Nat.mod_eq_of_lt fits]

end

/-- Settles O21: an accepted UPDATE runs `absorb` on its span, which counts the span and leaves DIGEST. -/
theorem updateCountsBytes : Obligations.UpdateCountsBytes := by
  intro s len absorbing present
  refine ⟨_, exec_update_accepted absorbing present, ?_, rfl, rfl, rfl, absorb_digest _ _ _⟩
  simp [spanBytes_length present]

/-- Settles O22: the accepted UPDATE is S1 followed by the first branch of S2, whose fields are read off one by one. -/
theorem updateShortSpanAppends : Obligations.UpdateShortSpanAppends := by
  intro s len absorbing present nonempty short
  have length : (spanBytes len s).length = len := spanBytes_length present
  have run := exec_update_accepted absorbing present
  rw [absorb_of_short _ nonempty (by omega), length] at run
  have fits : s.dp.fill.toNat + (spanBytes len s).length < 64 := by omega
  have buf := appendSpan_toList (dp := addToCounter len s.dp) fits.le
  have fill := appendSpan_fill_toNat (dp := addToCounter len s.dp) fits
  rw [length] at buf fill
  exact ⟨_, run, buf, fill, rfl, rfl, rfl, rfl, rfl, rfl, rfl, ⟨rfl, rfl, rfl, rfl⟩⟩

end Sys2Proof.Machine
end

/-! PROOFS. The FINALIZE command: its accepted case, the padding blocks of both paths and the requests they make, and the
digest it serialises (42_finalize). -/

section
namespace Sys2Proof.Machine

/-- 42_finalize R81: in ABSORBING, FINALIZE runs whatever the registers and the ports hold. -/
theorem exec_finalize_accepted {s : State} (absorbing : s.phase = .absorbing) :
    exec .finalize s = .next (retire { s with dp := finish Config.algorithm s.dp, phase := .consumed }) := by
  rcases execFinalize_cases s with ⟨-, run⟩ | ⟨refused, -⟩
  · exact run
  · exact absurd absorbing refused

/-- 42_finalize R82: the bit length is eight times `COUNTER`, modulo 2^64. -/
theorem totalBits_eq (counter : BitVec 64) : totalBits counter = BitVec.ofNat 64 (8 * counter.toNat) := by
  rw [totalBits, BitVec.mul_comm, BitVec.ofNat_mul, BitVec.ofNat_toNat, BitVec.setWidth_eq]
  rfl

/-- 43_compression_primitive R96: a request of one block is one `Compress1`. -/
theorem compressN_of_length_64 {n : Nat} (A : Algorithm n) (h : Vector Word n) {block : List Byte}
    (len : block.length = 64) : compressN A h block = A.compress1 h (toBlock block) := by
  rw [compressN, len, compressBlocks_succ, compressBlocks_zero]

/-- 43_compression_primitive R96: a request of two blocks is `Compress1` of the first, then of the second. -/
theorem compressN_append_of_length_64 {n : Nat} (A : Algorithm n) (h : Vector Word n) {first second : List Byte}
    (len₁ : first.length = 64) (len₂ : second.length = 64) :
    compressN A h (first ++ second) = A.compress1 (A.compress1 h (toBlock first)) (toBlock second) := by
  rw [compressN, List.length_append, len₁, len₂, compressBlocks_succ, compressBlocks_succ, compressBlocks_zero,
    toBlock_append _ _ len₁.ge, List.drop_left' len₁]

/-! The byte places of a digest. -/

/-- 20_memory R40: the four bytes from `4 * i` of serialised words are those of word `i`. -/
theorem sliceBytes_flatMap_be32 (ws : List Word) (i : Nat) (lt : i < ws.length) :
    sliceBytes (ws.flatMap be32) (4 * i) 4 = be32 ws[i] := by
  induction ws generalizing i with
  | nil => contradiction
  | cons w ws ih =>
    rw [List.flatMap_cons]
    cases i with
    | zero => exact List.take_left' (be32_length w)
    | succ i =>
      have past : (be32 w ++ ws.flatMap be32).drop (4 * (i + 1)) = (ws.flatMap be32).drop (4 * i) := by
        rw [Nat.mul_succ, Nat.add_comm, ← List.drop_drop, List.drop_left' (be32_length w)]
      rw [sliceBytes, past]
      exact ih i (Nat.lt_of_succ_lt_succ lt)

/-- 42_finalize R90: a DIGEST that serialises `h` holds `be32(h[i])` at `4 * i`. -/
theorem memRead_of_toList_eq_digestBytes {n : Nat} {digest : Vector Byte (4 * n)} {h : Vector Word n}
    (whole : digest.toList = digestBytes h) (i : Nat) (lt : i < n) : memRead digest (4 * i) 4 = be32 h[i] := by
  rw [memRead, whole, digestBytes, sliceBytes_flatMap_be32 _ i (by simpa using lt), Vector.getElem_toList]

section
variable {n : Nat} (A : Algorithm n) {dp : Datapath n}

/-- 42_finalize R83: the buffer with the pad byte begins with the tail and 0x80. -/
theorem putPadByte_take (dp : Datapath n) :
    (putPadByte dp).buf.toList.take (dp.fill.toNat + 1) = tailBytes dp ++ [0x80] := by
  have := dp.fill.isLt
  rw [putPadByte_toList]
  exact List.take_left' (by simp; omega)

/-- 42_finalize R84, R85: with `FILL` up to 55 the padding is one block, which `BUF` keeps, the one request carries and `H`
absorbs. -/
theorem finish_single (single : dp.fill.toNat ≤ 55) {block : List Byte}
    (padded : block = tailBytes dp ++ [0x80] ++ zeros (55 - dp.fill.toNat) ++ be64 (totalBits dp.counter)) :
    (finish A dp).trace = dp.trace ++ [⟨1, block⟩] ∧ (finish A dp).buf.toList = block ∧
      (finish A dp).h = A.compress1 dp.h (toBlock block) := by
  rcases finish_cases A dp with ⟨-, run⟩ | ⟨double, -⟩
  · have buf : (padSingle A (dp.fill.toNat + 1) (totalBits dp.counter) (putPadByte dp)).buf.toList = block := by
      rw [padSingle_toList _ _ _ _ (by omega), putPadByte_take, padded, Nat.add_sub_add_right 55 1]
    have len : block.length = 64 := by rw [← buf, Vector.length_toList]
    rw [run, writeDigest_trace, writeDigest_buf, writeDigest_h, padSingle_trace, padSingle_h, buf,
      compressN_of_length_64 A _ len]
    exact ⟨rfl, rfl, rfl⟩
  · omega

/-- 42_finalize R84, R86: with `FILL` from 56 the padding is two blocks in one request, of which `BUF` keeps the first: the
pad byte is all that FINALIZE writes there. -/
theorem finish_double (double : 56 ≤ dp.fill.toNat) {first second : List Byte}
    (head : first = tailBytes dp ++ [0x80] ++ dp.buf.toList.drop (dp.fill.toNat + 1))
    (tail : second = zeros 56 ++ be64 (totalBits dp.counter)) :
    (finish A dp).trace = dp.trace ++ [⟨2, first ++ second⟩] ∧ (finish A dp).buf.toList = first ∧
      (finish A dp).h = A.compress1 (A.compress1 dp.h (toBlock first)) (toBlock second) := by
  rcases finish_cases A dp with ⟨single, -⟩ | ⟨-, run⟩
  · omega
  · have buf : (putPadByte dp).buf.toList = first := by rw [putPadByte_toList, head, tailBytes]
    have len₁ : first.length = 64 := by rw [← buf, Vector.length_toList]
    have len₂ : second.length = 64 := by rw [tail, List.length_append, zeros_length, be64_length]
    rw [run, writeDigest_trace, writeDigest_buf, writeDigest_h, padDouble_trace, padDouble_buf, padDouble_h, buf,
      List.append_assoc, ← tail, compressN_append_of_length_64 A _ len₁ len₂]
    exact ⟨rfl, rfl, rfl⟩

end

/-- Settles O31: the accepted FINALIZE runs `finish`, here on its single-block path. -/
theorem finalizeSingleBlock : Obligations.FinalizeSingleBlock := by
  intro s block absorbing single padded
  rw [← totalBits_eq] at padded
  obtain ⟨trace, buf, h⟩ := finish_single Config.algorithm single padded
  exact ⟨_, exec_finalize_accepted absorbing, trace, buf, h, finish_digest _ _, finish_counter _ _, finish_fill _ _,
    rfl, rfl, rfl, ⟨rfl, rfl, rfl, rfl⟩⟩

/-- Settles O32: the accepted FINALIZE runs `finish`, here on its two-block path. -/
theorem finalizeTwoBlocks : Obligations.FinalizeTwoBlocks := by
  intro s first second absorbing double head tail
  rw [← totalBits_eq] at tail
  obtain ⟨trace, buf, h⟩ := finish_double Config.algorithm double head tail
  exact ⟨_, exec_finalize_accepted absorbing, trace, buf, h, finish_digest _ _, finish_counter _ _, finish_fill _ _,
    rfl, rfl, rfl, ⟨rfl, rfl, rfl, rfl⟩⟩

/-- Settles O34: DIGEST serialises the new `H` on both paths of `finish`, and word `i` of a serialisation lies at `4 * i`. -/
theorem finalizeWritesWholeDigest : Obligations.FinalizeWritesWholeDigest := fun s absorbing =>
  ⟨_, exec_finalize_accepted absorbing, memRead_of_toList_eq_digestBytes (finish_digest Config.algorithm s.dp)⟩

end Sys2Proof.Machine
end

/-! PROOFS. The compression port: one request over two block sequences is one request after the other
(43_compression_primitive R96). -/

section
namespace Sys2Proof.Machine

/-- 20_memory R38: read back as a block, the 64 bytes of a block are that block. -/
theorem toBlock_vectorToList (block : Vector Byte 64) : toBlock block.toList = block := by
  have len : block.toList.length = 64 := block.length_toList
  apply Vector.toList_inj.mp
  rw [toBlock_toList _ len.ge, List.take_of_length_le len.le]

/-- 43_compression_primitive R96: the loop over `k` whole blocks and `j` blocks of what follows them is the loop over
the `k` blocks, then the loop over the `j`. -/
theorem compressBlocks_append {n : Nat} (A : Algorithm n) (k j : Nat) (h : Vector Word n) {b1 : List Byte}
    (b2 : List Byte) (whole : b1.length = 64 * k) :
    compressBlocks A (k + j) h (b1 ++ b2) = compressBlocks A j (compressBlocks A k h b1) b2 := by
  induction k generalizing h b1 with
  | zero =>
    rw [List.length_eq_zero_iff.mp whole, List.nil_append, Nat.zero_add, compressBlocks_zero]
  | succ k ih =>
    have first : 64 ≤ b1.length := by omega
    have rest : (b1.drop 64).length = 64 * k := by rw [List.length_drop]; omega
    rw [Nat.add_right_comm k 1 j, compressBlocks_succ, compressBlocks_succ, toBlock_append _ _ first,
      List.drop_append_of_le_length first, ih _ rest]

/-- 43_compression_primitive R96: whole blocks are compressed before what follows them in the same request. -/
theorem compressN_append {n : Nat} (A : Algorithm n) {k : Nat} (h : Vector Word n) {b1 : List Byte} (b2 : List Byte)
    (whole : b1.length = 64 * k) : compressN A h (b1 ++ b2) = compressN A (compressN A h b1) b2 := by
  have count : b1.length / 64 = k := by omega
  have total : (b1 ++ b2).length / 64 = k + b2.length / 64 := by rw [List.length_append]; omega
  rw [compressN, compressN, compressN, total, count, compressBlocks_append A k _ h b2 whole]

/-- Settles O37: one block is `compressN_of_length_64`, two sequences are the induction over the blocks of the first. -/
theorem compressNFoldsBlocks : Obligations.CompressNFoldsBlocks := by
  intro n A h
  refine ⟨compressN_nil A h, fun block => ?_, fun _ _ b2 whole => compressN_append A h b2 whole⟩
  rw [compressN_of_length_64 A h block.length_toList, toBlock_vectorToList]

end Sys2Proof.Machine
end

/-! PROOFS. Errors: the state each cause leaves, written out, and the error bits over commands, steps and host transactions
(60_exceptions). -/

section
namespace Sys2Proof.Machine

/-- 60_exceptions R104: cause 1 drains nothing. -/
theorem raiseError_illegalCommand_eq (s : State) :
    raiseError .illegalCommand s = { s with errIllegal := true, cmd := s.cmd.tail } := rfl

/-- 60_exceptions R105: cause 2 drains the payload. -/
theorem raiseError_updatePhase_eq (len : Nat) (s : State) :
    raiseError (.updatePhase len) s =
      { s with errUpdatePhase := true, din := s.din.drop len, cmd := s.cmd.tail } := rfl

/-- 60_exceptions R106: cause 3 drains nothing. -/
theorem raiseError_finalizePhase_eq (s : State) :
    raiseError .finalizePhase s = { s with errFinalizePhase := true, cmd := s.cmd.tail } := rfl

/-- 60_exceptions R104: a word that does not decode raises cause 1, whatever the state. -/
theorem step_of_illegal {s : State} {w : CmdWord} {rest : List CmdWord} {e : Illegal} (words : s.cmd = w :: rest)
    (illegal : decode w = .error e) : step s = .next (raiseError .illegalCommand s) := by
  rcases step_cases s with ⟨none, -⟩ | ⟨_, _, _, -, -, run⟩ | ⟨w', rest', i, words', legal, -⟩
  · rw [none] at words; contradiction
  · exact run
  · obtain ⟨rfl, rfl⟩ := List.cons.inj (words.symm.trans words')
    rw [illegal] at legal; contradiction

/-- 60_exceptions R105: outside ABSORBING, UPDATE with its payload present raises cause 2. -/
theorem exec_update_refused {len : Nat} {s : State} (refused : s.phase ≠ .absorbing) (present : len ≤ s.din.length) :
    exec (.update len) s = .next (raiseError (.updatePhase len) s) := by
  have ready : spanReady len s = true := (spanReady_iff len s).mpr present
  rcases execUpdate_cases len s with ⟨short, -⟩ | ⟨-, absorbing, -⟩ | ⟨-, -, run⟩
  · rw [ready] at short; contradiction
  · exact absurd absorbing refused
  · exact run

/-- 60_exceptions R106: outside ABSORBING, FINALIZE raises cause 3. -/
theorem exec_finalize_refused {s : State} (refused : s.phase ≠ .absorbing) :
    exec .finalize s = .next (raiseError .finalizePhase s) := by
  rcases execFinalize_cases s with ⟨absorbing, -⟩ | ⟨-, run⟩
  · exact absurd absorbing refused
  · exact run

/-- Settles O12: both kinds of illegal word are outside the three rows of the opcode map, so the word does not decode. -/
theorem illegalWordRaisesCauseOne : Obligations.IllegalWordRaisesCauseOne := by
  intro s w rest words illegal
  obtain ⟨e, d⟩ : ∃ e, decode w = .error e := by
    apply decode_illegal <;> omega
  rw [step_of_illegal words d, raiseError_illegalCommand_eq, words, List.tail_cons]

/-- Settles O27: the refusal is cause 2, which drains the payload. -/
theorem refusedUpdateDrainsPayload : Obligations.RefusedUpdateDrainsPayload := by
  intro s len refused present
  rw [exec_update_refused refused present, raiseError_updatePhase_eq]

/-- Settles O35: the refusal is cause 3. -/
theorem refusedFinalizeChangesNothing : Obligations.RefusedFinalizeChangesNothing := by
  intro s refused
  rw [exec_finalize_refused refused, raiseError_finalizePhase_eq]

/-- The three error bits of two states agree. -/
def SameErrorBits (s t : State) : Prop :=
  t.errIllegal = s.errIllegal ∧ t.errUpdatePhase = s.errUpdatePhase ∧ t.errFinalizePhase = s.errFinalizePhase

/-- Each error bit that is 1 in `s` is 1 in `t` (60_exceptions R111). -/
def KeepsErrorBits (s t : State) : Prop :=
  (s.errIllegal = true → t.errIllegal = true) ∧ (s.errUpdatePhase = true → t.errUpdatePhase = true) ∧
    (s.errFinalizePhase = true → t.errFinalizePhase = true)

/-- A command leaves the error bits as they are or is refused with an error (60_exceptions R109, R110). -/
theorem exec_errorBits {i : Instr} {s t : State} (ran : exec i s = .next t) :
    SameErrorBits s t ∨ ∃ c, t = raiseError c s := by
  cases i with
  | init =>
    cases ran
    exact .inl ⟨rfl, rfl, rfl⟩
  | update len =>
    change execUpdate len s = _ at ran
    rcases execUpdate_cases len s with ⟨-, e⟩ | ⟨-, -, e⟩ | ⟨-, -, e⟩ <;> rw [e] at ran <;> cases ran
    · exact .inl ⟨rfl, rfl, rfl⟩
    · exact .inl ⟨rfl, rfl, rfl⟩
    · exact .inr ⟨_, rfl⟩
  | finalize =>
    change execFinalize s = _ at ran
    rcases execFinalize_cases s with ⟨-, e⟩ | ⟨-, e⟩ <;> rw [e] at ran <;> cases ran
    · exact .inl ⟨rfl, rfl, rfl⟩
    · exact .inr ⟨_, rfl⟩

/-- A step leaves the error bits as they are or raises one error (60_exceptions R109). -/
theorem step_errorBits {s t : State} (stepped : step s = .next t) : SameErrorBits s t ∨ ∃ c, t = raiseError c s := by
  rcases step_cases s with ⟨-, e⟩ | ⟨w, rest, _, -, -, e⟩ | ⟨w, rest, i, -, -, e⟩ <;> rw [e] at stepped
  · cases stepped; exact .inl ⟨rfl, rfl, rfl⟩
  · cases stepped; exact .inr ⟨_, rfl⟩
  · exact exec_errorBits stepped

theorem KeepsErrorBits.of_same {s t : State} (same : SameErrorBits s t) : KeepsErrorBits s t := by
  obtain ⟨illegal, update, finalize⟩ := same
  exact ⟨illegal.trans, update.trans, finalize.trans⟩

theorem KeepsErrorBits.refl (s : State) : KeepsErrorBits s s := ⟨id, id, id⟩

theorem KeepsErrorBits.trans {s t u : State} (first : KeepsErrorBits s t) (second : KeepsErrorBits t u) :
    KeepsErrorBits s u := by
  obtain ⟨illegal, update, finalize⟩ := first
  obtain ⟨illegal', update', finalize'⟩ := second
  exact ⟨illegal' ∘ illegal, update' ∘ update, finalize' ∘ finalize⟩

/-- 60_exceptions R110, R111: raising an error sets a bit and clears none. -/
theorem raiseError_keepsErrorBits (c : ErrorCause) (s : State) : KeepsErrorBits s (raiseError c s) := by
  cases c with
  | illegalCommand => exact ⟨fun _ => rfl, id, id⟩
  | updatePhase len => exact ⟨id, fun _ => rfl, id⟩
  | finalizePhase => exact ⟨id, id, fun _ => rfl⟩

/-- 60_exceptions R111: no step clears an error bit. -/
theorem step_keepsErrorBits {s t : State} (stepped : step s = .next t) : KeepsErrorBits s t := by
  rcases step_errorBits stepped with same | ⟨c, rfl⟩
  · exact .of_same same
  · exact raiseError_keepsErrorBits c s

/-- 60_exceptions R111: no run of commands clears an error bit. -/
theorem settle_keepsErrorBits (s : State) : KeepsErrorBits s (settle s) :=
  runCommands_keeps (P := KeepsErrorBits s) (fun _ _ kept stepped => kept.trans (step_keepsErrorBits stepped)) _ s
    (.refl s)

/-- 60_exceptions R111: no host transaction but a reset clears an error bit. -/
theorem serveHost_keepsErrorBits {r : HostRequest} {s t : State} {reply : HostReply}
    (served : serveHost r s = .ok (t, reply)) (notReset : r ≠ .reset) : KeepsErrorBits s t := by
  rcases serveHost_cases served with ⟨w, -, -, rfl, -⟩ | ⟨b, -, rfl, -⟩ | ⟨-, rfl, -⟩ | ⟨i, b, -, rfl, -, -⟩ | ⟨reset, -, -⟩
  · exact settle_keepsErrorBits { s with cmd := [w] }
  · exact settle_keepsErrorBits { s with din := s.din ++ [b] }
  · exact .refl t
  · exact .refl t
  · exact absurd reset notReset

/-- Settles O40: a step leaves the error bits or raises an error, which clears none; a transaction runs steps. -/
theorem errorBitsAreSticky : Obligations.ErrorBitsAreSticky := by
  refine ⟨fun _ _ => step_keepsErrorBits, fun r s t reply served => ?_⟩
  split
  next reset =>
    subst reset
    cases served
    exact ⟨rfl, rfl, rfl⟩
  next notReset => exact serveHost_keepsErrorBits served notReset

end Sys2Proof.Machine
end

/-! PROOFS. Command words: the decoder answers a command exactly for the word whose fields are those of that command
(30_encoding R51, R53, R56), and the assembler issues such words only (R60 to R63). -/

section
namespace Sys2Proof.Machine

/-- 30_encoding R53, R56: the decoder by fields, in both directions. -/
theorem decode_eq_ok_iff (w : CmdWord) (i : Instr) :
    decode w = .ok i ↔ opcField w = i.opcode ∧ lenField w = i.lenOperand := by
  constructor
  · intro decoded
    by_cases isInit : opcField w = 0x01 ∧ lenField w = 0
    · rw [decode_init isInit.1 isInit.2] at decoded; cases decoded; exact isInit
    by_cases isUpdate : opcField w = 0x02
    · rw [decode_update isUpdate] at decoded; cases decoded; exact ⟨isUpdate, rfl⟩
    by_cases isFinalize : opcField w = 0x03 ∧ lenField w = 0
    · rw [decode_finalize isFinalize.1 isFinalize.2] at decoded; cases decoded; exact isFinalize
    obtain ⟨e, illegal⟩ := decode_illegal isInit isUpdate isFinalize
    rw [illegal] at decoded; contradiction
  · rintro ⟨opc, len⟩
    cases i with
    | init => exact decode_init opc len
    | update n => rw [decode_update opc, len]; rfl
    | finalize => exact decode_finalize opc len

/-- 30_encoding R51, R52: the fields of an encoded well-formed command are its operation code and its length. -/
theorem fields_encode {i : Instr} (wf : i.WellFormed) :
    opcField (encode i) = i.opcode ∧ lenField (encode i) = i.lenOperand := by
  cases i with
  | init => exact Laws.EncodedFields.init wf
  | update len => exact Laws.EncodedFields.update len wf
  | finalize => exact Laws.EncodedFields.finalize wf

/-- 30_encoding R54: an UPDATE is well formed when its length fits `LEN`. -/
theorem wellFormed_update_iff (len : Nat) : (Instr.update len).WellFormed ↔ len < lenBound := decide_eq_true_iff

/-- 30_encoding R54: what the decoder answers is well formed, since `LEN` has 56 bits. -/
theorem wellFormed_of_decode {w : CmdWord} {i : Instr} (decoded : decode w = .ok i) : i.WellFormed := by
  obtain ⟨-, len⟩ := (decode_eq_ok_iff w i).mp decoded
  cases i with
  | init => rfl
  | update n =>
    have len : lenField w = n := len
    have bound : lenField w < lenBound := Nat.mod_lt _ (by decide)
    exact (wellFormed_update_iff n).mpr (len ▸ bound)
  | finalize => rfl

/-- Settles O7: the fields of the encoded command are those the decoder asks for. -/
theorem decodeOfEncode : Obligations.DecodeOfEncode := fun i wf => (decode_eq_ok_iff _ i).mpr (fields_encode wf)

/-- Settles O8: the word and the encoded command have the same two fields, and a word is its fields. -/
theorem encodeOfDecode : Obligations.EncodeOfDecode := by
  intro w i decoded
  have wf := wellFormed_of_decode decoded
  obtain ⟨opc, len⟩ := (decode_eq_ok_iff w i).mp decoded
  obtain ⟨opc', len'⟩ := fields_encode wf
  exact ⟨wf, (word_eq_iff _ w).mpr ⟨opc'.trans opc.symm, len'.trans len.symm⟩⟩

/-- 30_encoding R59: the payload length of a word that decodes is the length its command asks for, 0 but for UPDATE. -/
theorem payloadLength_of_decode {w : CmdWord} {i : Instr} (decoded : decode w = .ok i) :
    payloadLength w = i.lenOperand := by
  obtain ⟨opc, len⟩ := (decode_eq_ok_iff w i).mp decoded
  rw [payloadLength, opc, len]
  cases i <;> rfl

/-- 30_encoding R59: a word that is no UPDATE has no payload. -/
theorem payloadLength_of_not_update {w : CmdWord} (other : ∀ len, decode w ≠ .ok (.update len)) :
    payloadLength w = 0 :=
  if_neg fun opc => other _ (decode_update opc)

/-- Settles O9: an UPDATE word asks for its `LEN`, and a word with its `OPC` is an UPDATE word. -/
theorem payloadLengthOfWord : Obligations.PayloadLengthOfWord := fun _ =>
  ⟨fun _ decoded => payloadLength_of_decode decoded, payloadLength_of_not_update⟩

/-- Settles O6: the decoder evaluated on the twelve words. -/
theorem sampleWordsDecode : Obligations.SampleWordsDecode := by
  unfold Obligations.SampleWordsDecode
  decide

/-! The assembler. -/

/-- 30_encoding R61: a part stands for as many bytes as its length says. -/
theorem spanPartBytes_length (p : SpanPart) : (spanPartBytes p).length = spanPartLength p := by
  cases p <;> simp [spanPartBytes, spanPartLength]

/-- 30_encoding R61: the length of a span is the number of its bytes. -/
theorem spanLength_eq (span : List SpanPart) : spanLength span = (spanPayload span).length := by
  induction span with
  | nil => rfl
  | cons p rest ih =>
    rw [spanPayload, List.flatMap_cons, List.length_append, spanPartBytes_length]
    exact congrArg (spanPartLength p + ·) ih

/-- What 30_encoding R59 asks of a command on the ports: a word that decodes, with as many bytes as belong to it. -/
def IssuedCommand.Legal (u : IssuedCommand) : Prop :=
  (∃ i, decode u.word = .ok i) ∧ payloadLength u.word = u.payload.length

/-- An encoded well-formed command with as many bytes as it asks for is legal. -/
theorem IssuedCommand.Legal.of_encode {i : Instr} (wf : i.WellFormed) {payload : List Byte}
    (len : payload.length = i.lenOperand) : IssuedCommand.Legal ⟨encode i, payload⟩ :=
  have decoded := decodeOfEncode i wf
  ⟨⟨i, decoded⟩, (payloadLength_of_decode decoded).trans len.symm⟩

/-- 30_encoding R61: a span that one word can carry assembles to one legal command with its bytes as payload. -/
theorem assembleUpdate_fits {span : List SpanPart} (fits : (spanPayload span).length < lenBound) :
    assembleUpdate span = .ok ⟨encode (.update (spanPayload span).length), spanPayload span⟩ := by
  rw [assembleUpdate, spanLength_eq, if_pos fits]

/-- Log entry 18: a longer span does not assemble. -/
theorem assembleUpdate_tooLong {span : List SpanPart} (long : lenBound ≤ (spanPayload span).length) :
    assembleUpdate span = .error .spanTooLong := by
  rw [assembleUpdate, spanLength_eq, if_neg (Nat.not_lt.mpr long)]

/-- 30_encoding R59, R61: the command an UPDATE line assembles to is legal. -/
theorem assembleUpdate_legal {span : List SpanPart} {u : IssuedCommand} (assembled : assembleUpdate span = .ok u) :
    u.Legal := by
  by_cases fits : (spanPayload span).length < lenBound
  · rw [assembleUpdate_fits fits] at assembled
    cases assembled
    exact .of_encode ((wellFormed_update_iff _).mpr fits) rfl
  · rw [assembleUpdate_tooLong (Nat.not_lt.mp fits)] at assembled
    contradiction

theorem IssuedCommand.Legal.init : IssuedCommand.Legal ⟨encode .init, []⟩ := .of_encode rfl rfl

theorem IssuedCommand.Legal.finalize : IssuedCommand.Legal ⟨encode .finalize, []⟩ := .of_encode rfl rfl

/-- 30_encoding R60 to R63: every command of an assembled line is legal. -/
theorem assemble_legal {line : AsmLine} {us : List IssuedCommand} (assembled : assemble line = .ok us) :
    ∀ u ∈ us, u.Legal := by
  cases line with
  | init => cases assembled; exact List.forall_mem_singleton.mpr .init
  | finalize => cases assembled; exact List.forall_mem_singleton.mpr .finalize
  | update span =>
    cases built : assembleUpdate span with
    | error e => rw [assemble, built] at assembled; contradiction
    | ok u =>
      rw [assemble, built] at assembled
      cases assembled
      exact List.forall_mem_singleton.mpr (assembleUpdate_legal built)
  | hash span =>
    cases built : assembleUpdate span with
    | error e => rw [assemble, built] at assembled; contradiction
    | ok u =>
      rw [assemble, built] at assembled
      cases assembled
      intro v mem
      simp only [List.mem_cons, List.not_mem_nil, or_false] at mem
      rcases mem with rfl | rfl | rfl
      · exact .init
      · exact assembleUpdate_legal built
      · exact .finalize

/-- Settles O10: the words are those of `encode`, a span of at most 2^56 - 1 bytes is one UPDATE, and every line issues
legal commands. -/
theorem assembledCommandsAreLegal : Obligations.AssembledCommandsAreLegal := by
  refine ⟨rfl, rfl, fun span fits => ?_, fun span long => ?_, rfl, fun _ _ => rfl, fun _ _ => rfl, fun _ _ _ => rfl,
    fun _ _ => assemble_legal⟩
  · rw [assemble, assemble, assembleUpdate_fits fits]; exact ⟨rfl, rfl⟩
  · rw [assemble, assemble, assembleUpdate_tooLong long]; exact ⟨rfl, rfl⟩

end Sys2Proof.Machine
end

/-! PROOFS. The byte spaces: what each byte is after a MemWrite, and that the serialisation of the chaining words loses none of
their bits (20_memory R36, R37, R40). -/

section
namespace Sys2Proof.Machine

/-- 20_memory R37: byte by byte, a write inside its space. -/
theorem memWrite_getElem? {k : Nat} (m : Vector Byte k) (a : Nat) (v : List Byte) (fits : a + v.length ≤ k) (i : Nat) :
    (memWrite m a v)[i]? = if i < a then m[i]? else if i < a + v.length then v[i - a]? else m[i]? := by
  have front : (m.toList.take a).length = a := by simp; omega
  rw [← Vector.getElem?_toList, ← Vector.getElem?_toList, memWrite_toList m a v fits, List.append_assoc]
  by_cases below : i < a
  · rw [if_pos below, List.getElem?_append_left (by omega), List.getElem?_take_of_lt below]
  rw [if_neg below, List.getElem?_append_right (by omega), front]
  by_cases inside : i < a + v.length
  · rw [if_pos inside, List.getElem?_append_left (by omega)]
  · rw [if_neg inside, List.getElem?_append_right (by omega), List.getElem?_drop]
    congr 1
    omega

/-- 20_memory R37: a write inside its space leaves every byte outside its place. -/
theorem memWrite_getElem?_of_outside {k : Nat} {m : Vector Byte k} {a : Nat} {v : List Byte} (fits : a + v.length ≤ k) {i : Nat}
    (outside : i < a ∨ a + v.length ≤ i) : (memWrite m a v)[i]? = m[i]? := by
  rw [memWrite_getElem? m a v fits]
  rcases outside with below | above
  · rw [if_pos below]
  · rw [if_neg (by omega), if_neg (by omega)]

/-- 20_memory R36: byte by byte, a read. -/
theorem memRead_getElem? {k : Nat} (m : Vector Byte k) (a n i : Nat) :
    (memRead m a n)[i]? = if i < n then m[a + i]? else none := by
  rw [memRead, sliceBytes, List.getElem?_take, List.getElem?_drop, Vector.getElem?_toList]

/-- Settles O2: byte by byte, by `memWrite_getElem?`. -/
theorem memWriteSetsExactlyItsBytes : Obligations.MemWriteSetsExactlyItsBytes := by
  intro k m a v fits
  refine ⟨fun i lt => ?_, fun _ => memWrite_getElem?_of_outside fits, memWrite_nil m a⟩
  rw [memWrite_getElem? m a v fits, if_neg (by omega), if_pos (by omega), Nat.add_sub_cancel_left]

/-- Settles O3: byte `i` of a read is byte `b + i` of the space, of which `MemWriteSetsExactlyItsBytes` speaks. -/
theorem memReadAfterWrite : Obligations.MemReadAfterWrite := by
  intro k m a v fits
  obtain ⟨written, kept, -⟩ := memWriteSetsExactlyItsBytes k m a v fits
  refine ⟨List.ext_getElem? fun i => ?_, fun b l _ apart => List.ext_getElem? fun i => ?_⟩
  · rw [memRead_getElem?]
    split
    next lt => exact written i lt
    next ge => exact (List.getElem?_eq_none (Nat.not_lt.mp ge)).symm
  · rw [memRead_getElem?, memRead_getElem?]
    split
    next lt => exact kept (b + i) (by omega)
    next => rfl

/-- 00_scope R12: a chaining word is determined by its bytes. -/
theorem be32_injective {w v : Word} (same : be32 w = be32 v) : w = v := by
  have bytes := congrArg (List.map BitVec.toNat) same
  simp only [be32_map_toNat, List.cons.injEq, and_true] at bytes
  apply BitVec.toNat_inj.mp
  omega

/-- Settles O4: word `i` is the four bytes at `4 * i`, which determine it. -/
theorem digestDeterminesChainingWords : Obligations.DigestDeterminesChainingWords := by
  intro n h g same
  refine Vector.ext fun i lt => be32_injective ?_
  have place : ∀ x : Vector Word n, be32 x[i] = sliceBytes (digestBytes x) (4 * i) 4 := fun x => by
    rw [digestBytes, sliceBytes_flatMap_be32 _ i (by simpa using lt), Vector.getElem_toList]
  rw [place h, place g, same]

end Sys2Proof.Machine
end

/-! PROOFS. The transitions of the engine as a relation: `ExecTo` and `StepTo` have one constructor per way a command and a
step can go, with the conditions under which they do. Proofs about steps split on these (41_update R69, 42_finalize R81,
60_exceptions R103, R109, 70_reset_and_hazards R126). -/

section
namespace Sys2Proof.Machine

/-- The ways a decoded command can go. -/
inductive ExecTo (s : State) : Instr → State → Prop
  | init : ExecTo s .init (retire { s with dp := initDatapath Config.algorithm s.dp, phase := .absorbing })
  | waits {len : Nat} (short : s.din.length < len) : ExecTo s (.update len) s
  | update {len : Nat} (absorbing : s.phase = .absorbing) (present : len ≤ s.din.length) :
      ExecTo s (.update len)
        (retire (consumeSpan len { s with dp := absorb Config.algorithm (spanBytes len s) s.dp }))
  | updateRefused {len : Nat} (refused : s.phase ≠ .absorbing) (present : len ≤ s.din.length) :
      ExecTo s (.update len) (raiseError (.updatePhase len) s)
  | finalize (absorbing : s.phase = .absorbing) :
      ExecTo s .finalize (retire { s with dp := finish Config.algorithm s.dp, phase := .consumed })
  | finalizeRefused (refused : s.phase ≠ .absorbing) : ExecTo s .finalize (raiseError .finalizePhase s)

/-- 70_reset_and_hazards R126: while payload is missing, UPDATE changes nothing. -/
theorem exec_update_waits {len : Nat} {s : State} (short : s.din.length < len) : exec (.update len) s = .next s :=
  execUpdate_holds len s (decide_eq_false (Nat.not_le.mpr short))

/-- Each way of `ExecTo` is a transition of `exec`. -/
theorem ExecTo.exec_eq {i : Instr} {s t : State} (ran : ExecTo s i t) : exec i s = .next t := by
  cases ran with
  | init => exact exec_init s
  | waits short => exact exec_update_waits short
  | update absorbing present => exact exec_update_accepted absorbing present
  | updateRefused refused present => exact exec_update_refused refused present
  | finalize absorbing => exact exec_finalize_accepted absorbing
  | finalizeRefused refused => exact exec_finalize_refused refused

/-- In every state every command goes one of the ways. -/
theorem exists_execTo (s : State) (i : Instr) : ∃ t, ExecTo s i t := by
  cases i with
  | init => exact ⟨_, .init⟩
  | update len =>
    by_cases present : len ≤ s.din.length
    · by_cases absorbing : s.phase = .absorbing
      · exact ⟨_, .update absorbing present⟩
      · exact ⟨_, .updateRefused absorbing present⟩
    · exact ⟨_, .waits (Nat.not_le.mp present)⟩
  | finalize =>
    by_cases absorbing : s.phase = .absorbing
    · exact ⟨_, .finalize absorbing⟩
    · exact ⟨_, .finalizeRefused absorbing⟩

/-- The transitions of `exec` are the ways of `ExecTo`. -/
theorem execTo_of_exec {i : Instr} {s t : State} (ran : exec i s = .next t) : ExecTo s i t := by
  obtain ⟨t', way⟩ := exists_execTo s i
  cases ran.symm.trans way.exec_eq
  exact way

/-- The ways a step can go. -/
inductive StepTo (s : State) : State → Prop
  | idle (none : s.cmd = []) : StepTo s s
  | illegal {w : CmdWord} {rest : List CmdWord} {e : Illegal} (words : s.cmd = w :: rest) (undecoded : decode w = .error e) :
      StepTo s (raiseError .illegalCommand s)
  | command {w : CmdWord} {rest : List CmdWord} {i : Instr} {t : State} (words : s.cmd = w :: rest)
      (decoded : decode w = .ok i) (ran : ExecTo s i t) : StepTo s t

/-- 10_state R24, log entry 5: with no word on CMD a step changes nothing. -/
theorem step_of_nil {s : State} (none : s.cmd = []) : step s = .next s := by
  simp [step, fetchWord, none]

/-- 30_encoding R53: a step at a word that decodes is the command. -/
theorem step_of_decode {s : State} {w : CmdWord} {rest : List CmdWord} {i : Instr} (words : s.cmd = w :: rest)
    (decoded : decode w = .ok i) : step s = exec i s := by
  simp [step, fetchWord, words, decoded]

/-- Each way of `StepTo` is a transition of `step`. -/
theorem StepTo.step_eq {s t : State} (went : StepTo s t) : step s = .next t := by
  cases went with
  | idle none => exact step_of_nil none
  | illegal words undecoded => exact step_of_illegal words undecoded
  | command words decoded ran => rw [step_of_decode words decoded]; exact ran.exec_eq

/-- In every state a step goes one of the ways. -/
theorem exists_stepTo (s : State) : ∃ t, StepTo s t := by
  cases words : s.cmd with
  | nil => exact ⟨s, .idle words⟩
  | cons w rest =>
    cases decoded : decode w with
    | error e => exact ⟨_, .illegal words decoded⟩
    | ok i =>
      obtain ⟨t, ran⟩ := exists_execTo s i
      exact ⟨t, .command words decoded ran⟩

/-- The transitions of `step` are the ways of `StepTo`. -/
theorem stepTo_of_step {s t : State} (stepped : step s = .next t) : StepTo s t := by
  obtain ⟨t', way⟩ := exists_stepTo s
  cases stepped.symm.trans way.step_eq
  exact way

/-- Settles O11: the step fetches the word at the head of CMD. -/
theorem stepRunsDecodedCommand : Obligations.StepRunsDecodedCommand := fun _ _ _ _ => step_of_decode

/-- Settles O13: there is no word to fetch. -/
theorem idleEngineDoesNothing : Obligations.IdleEngineDoesNothing := fun _ => step_of_nil

/-- Settles O16: every step goes one of the ways, each of which is a next state. -/
theorem everyStepHasNextState : Obligations.EveryStepHasNextState := fun s =>
  (exists_stepTo s).imp fun _ => StepTo.step_eq

/-- Settles O20: with payload missing, UPDATE waits in every phase. -/
theorem updateHoldsUntilPayloadComplete : Obligations.UpdateHoldsUntilPayloadComplete := fun _ _ => exec_update_waits

/-- Settles O18: the registers INIT leaves do not mention those before it. -/
theorem initForgetsTheState : Obligations.InitForgetsTheState := by
  intro s t
  refine ⟨_, _, _, exec_init s, exec_init t, exec_init _, rfl, rfl, ?_, rfl, rfl, ?_⟩
  · simp
  · simp [initDatapath_eq, retire]

/-- Settles O19: INIT goes one way, which writes `H`, `COUNTER`, `BUF`, `FILL`, the phase and CMD. -/
theorem initFrame : Obligations.InitFrame := by
  intro s t ran
  cases execTo_of_exec ran
  exact ⟨fun _ => rfl, rfl, rfl, ⟨rfl, rfl, rfl, rfl⟩⟩

/-- A step at a word raises cause 1 or is a way of the command the word decodes to. -/
theorem StepTo.of_cons {s t : State} {w : CmdWord} {rest : List CmdWord} (went : StepTo s t) (words : s.cmd = w :: rest) :
    (∃ e, decode w = .error e ∧ t = raiseError .illegalCommand s) ∨ ∃ i, decode w = .ok i ∧ ExecTo s i t := by
  cases went with
  | idle none => rw [none] at words; contradiction
  | illegal words' undecoded =>
    obtain ⟨rfl, rfl⟩ := List.cons.inj (words.symm.trans words')
    exact .inl ⟨_, undecoded, rfl⟩
  | command words' decoded ran =>
    obtain ⟨rfl, rfl⟩ := List.cons.inj (words.symm.trans words')
    exact .inr ⟨_, decoded, ran⟩

/-! What a transition takes off CMD. -/

/-- A command waits and leaves everything, or completes and takes its word off CMD. -/
theorem ExecTo.waits_or_completes {i : Instr} {s t : State} (ran : ExecTo s i t) :
    (t = s ∧ ∃ len, i = .update len ∧ s.din.length < len) ∨ t.cmd = s.cmd.tail := by
  cases ran with
  | waits short => exact .inl ⟨rfl, _, rfl, short⟩
  | init | update _ _ | updateRefused _ _ | finalize _ | finalizeRefused _ => exact .inr (by simp)

/-- With nothing on CMD no command waits. -/
theorem settled_of_nil {s : State} (none : s.cmd = []) : Settled s := by
  intro w rest words
  rw [none] at words
  contradiction

/-- A step finds nothing that could run and leaves everything, or takes the first word off CMD. -/
theorem StepTo.settled_or_takes {s t : State} (went : StepTo s t) :
    (t = s ∧ Settled s) ∨ ∃ w, s.cmd = w :: t.cmd := by
  cases went with
  | idle none => exact .inl ⟨rfl, settled_of_nil none⟩
  | illegal words _ => exact .inr ⟨_, by rw [words, raiseError_cmd, words, List.tail_cons]⟩
  | command words decoded ran =>
    rcases ran.waits_or_completes with ⟨rfl, len, rfl, short⟩ | completes
    · refine .inl ⟨rfl, fun w rest words' => ?_⟩
      obtain ⟨rfl, -⟩ := List.cons.inj (words'.symm.trans words)
      exact ⟨len, decoded, short⟩
    · exact .inr ⟨_, by rw [words, completes, words, List.tail_cons]⟩

/-- 20_memory R45, R47: a step takes words off the front of CMD and puts none there. -/
theorem StepTo.cmd_suffix {s t : State} (went : StepTo s t) : t.cmd <:+ s.cmd := by
  rcases went.settled_or_takes with ⟨rfl, -⟩ | ⟨w, takes⟩
  · exact List.suffix_rfl
  · rw [takes]; exact List.suffix_cons w t.cmd

end Sys2Proof.Machine
end

/-! PROOFS. The layout of STATUS, and the error bits a step sets (10_state R20, R21; 60_exceptions R109 to R111). -/

section
namespace Sys2Proof.Machine

/-- 10_state R20: PHASE is never 3. -/
theorem phaseCode_lt (p : Phase) : phaseCode p < 3 := by cases p <;> decide

/-- 10_state R21: the value of STATUS by its fields. -/
theorem statusWord_toNat (s : State) :
    (statusWord s).toNat =
      phaseCode s.phase + 4 * s.errIllegal.toNat + 8 * s.errUpdatePhase.toNat + 16 * s.errFinalizePhase.toNat := by
  have := phaseCode_lt s.phase
  have := s.errIllegal.toNat_le
  have := s.errUpdatePhase.toNat_le
  have := s.errFinalizePhase.toNat_le
  rw [statusWord, BitVec.toNat_ofNat]
  omega

/-- The bit of a number whose digit there is a truth value. -/
theorem testBit_of_digit {n i : Nat} {b : Bool} (digit : n / 2 ^ i % 2 = b.toNat) : n.testBit i = b := by
  rw [Nat.testBit_eq_decide_div_mod_eq, digit]
  cases b <;> rfl

/-- Settles O39: each field is a digit of the value of STATUS, which is below 32. -/
theorem statusLayout : Obligations.StatusLayout := by
  intro s
  have value := statusWord_toNat s
  have := phaseCode_lt s.phase
  have := s.errIllegal.toNat_le
  have := s.errUpdatePhase.toNat_le
  have := s.errFinalizePhase.toNat_le
  refine ⟨by omega, by omega, testBit_of_digit (by omega), testBit_of_digit (by omega), testBit_of_digit (by omega),
    fun i high => Nat.testBit_lt_two_pow ?_⟩
  calc (statusWord s).toNat < 2 ^ 5 := by omega
    _ ≤ 2 ^ i := Nat.pow_le_pow_right (by decide) high

/-- 60_exceptions R109, R110: raising an error sets at most one bit that was clear. -/
theorem newErrors_raiseError (c : ErrorCause) (s : State) : newErrors s (raiseError c s) ≤ 1 := by
  cases c <;> simp [newErrors, Bool.toNat_le]

/-- Settles O42: a step leaves the error bits or raises one error, which for a word that does not decode is cause 1. -/
theorem atMostOneErrorPerCommand : Obligations.AtMostOneErrorPerCommand := by
  refine ⟨fun s t stepped => ?_, fun s t w words _ opc len stepped => ?_⟩
  · rcases step_errorBits stepped with ⟨illegal, update, finalize⟩ | ⟨c, rfl⟩
    · simp [newErrors, illegal, update, finalize]
    · exact newErrors_raiseError c s
  · rw [illegalWordRaisesCauseOne s w [] words (.inr ⟨.inr opc, len⟩)] at stepped
    cases stepped
    exact ⟨rfl, rfl, rfl⟩

/-- The three error bits are 0 (60_exceptions R111). -/
theorem errorFree_iff (s : State) :
    errorFree s = true ↔ s.errIllegal = false ∧ s.errUpdatePhase = false ∧ s.errFinalizePhase = false := by
  simp [errorFree, and_assoc]

/-- 60_exceptions R111: where bits are only ever set, they were 0 before if they are 0 now. -/
theorem KeepsErrorBits.errorFree {s t : State} (kept : KeepsErrorBits s t) (clear : errorFree t = true) :
    errorFree s = true := by
  obtain ⟨illegal, update, finalize⟩ := kept
  rw [errorFree_iff] at clear ⊢
  grind

/-- 60_exceptions R110: after an error is raised a bit is 1. -/
theorem not_errorFree_raiseError (c : ErrorCause) (s : State) : errorFree (raiseError c s) ≠ true := by
  cases c <;> simp [errorFree_iff]

/-- Settles O41: the ways of a step that raise an error leave a bit set, and every other way takes an accepted command. -/
theorem errorFreeStepTookAcceptedCommand : Obligations.ErrorFreeStepTookAcceptedCommand := by
  intro s t w rest words stepped clear
  refine ⟨(step_keepsErrorBits stepped).errorFree clear, ?_⟩
  rcases (stepTo_of_step stepped).of_cons words with ⟨_, -, rfl⟩ | ⟨i, decoded, ran⟩
  · exact absurd clear (not_errorFree_raiseError _ s)
  · refine ⟨i, decoded, ?_⟩
    cases ran with
    | init => exact ⟨nofun, nofun⟩
    | waits short => exact ⟨fun _ same => .inr (by cases same; exact short), nofun⟩
    | update absorbing _ => exact ⟨fun _ _ => .inl absorbing, nofun⟩
    | finalize absorbing => exact ⟨nofun, fun _ => absorbing⟩
    | updateRefused _ _ | finalizeRefused _ => exact absurd clear (not_errorFree_raiseError _ s)

end Sys2Proof.Machine
end

/-! PROOFS. The host transactions: what each answers, and that after each no command that could run waits (20_memory R48,
R50, 60_exceptions R116, 70_reset_and_hazards R119, R126). -/

section
namespace Sys2Proof.Machine

/-- 20_memory R50: with no command in progress, a word the host sends is run. -/
theorem serveHost_writeCmd {s : State} (free : s.cmd = []) (w : CmdWord) :
    serveHost (.writeCmd w) s = .ok (settle { s with cmd := [w] }, .nothing) := if_pos free

/-- 60_exceptions R116: while a command is in progress, a word the host sends is refused. -/
theorem serveHost_writeCmd_refused {s : State} (busy : s.cmd ≠ []) (w : CmdWord) :
    serveHost (.writeCmd w) s = .error (.commandInProgress w) := if_neg busy

/-- 70_reset_and_hazards R126: a byte the host sends goes behind those on DIN, and what is complete is run. -/
theorem serveHost_writeDin (s : State) (b : Byte) :
    serveHost (.writeDin b) s = .ok (settle { s with din := s.din ++ [b] }, .nothing) := rfl

/-- 70_reset_and_hazards R126: with one word on CMD, the transaction of a byte is one step with that byte on DIN. -/
theorem serveHost_writeDin_of_step {s t : State} {w : CmdWord} {b : Byte} (words : s.cmd = [w])
    (went : StepTo { s with din := s.din ++ [b] } t) : serveHost (.writeDin b) s = .ok (t, .nothing) := by
  rw [serveHost_writeDin, settle_of_single (s := { s with din := s.din ++ [b] }) words went.step_eq]

/-- 20_memory R45: a read of STATUS. -/
theorem serveHost_readStatus (s : State) : serveHost .readStatus s = .ok (s, .status (statusWord s)) := rfl

/-- 20_memory R45, 60_exceptions R116: a read of DIGEST inside the register. -/
theorem serveHost_readDigest {s : State} {i : Nat} (inside : i < 4 * Config.numWords) :
    serveHost (.readDigest i) s = .ok (s, .digestByte s.dp.digest[i]) := by
  simp [serveHost, digestByteAt, inside, Except.map]

/-- Log entry 11: a read of DIGEST outside the register is refused. -/
theorem serveHost_readDigest_refused {s : State} {i : Nat} (outside : 4 * Config.numWords ≤ i) :
    serveHost (.readDigest i) s = .error (.digestIndexOutOfRange i) := by
  simp [serveHost, digestByteAt, Nat.not_lt.mpr outside, Except.map]

/-- 20_memory R45: an answered read of DIGEST changes nothing. -/
theorem serveHost_readDigest_keeps {s t : State} {i : Nat} {reply : HostReply}
    (served : serveHost (.readDigest i) s = .ok (t, reply)) : t = s := by
  by_cases inside : i < 4 * Config.numWords
  · rw [serveHost_readDigest inside] at served; cases served; rfl
  · rw [serveHost_readDigest_refused (Nat.not_lt.mp inside)] at served; contradiction

/-- 20_memory R50: with nothing on CMD, the transaction of a word is one step with that word on CMD. -/
theorem serveHost_writeCmd_of_step {s t : State} {w : CmdWord} (free : s.cmd = [])
    (went : StepTo { s with cmd := [w] } t) : serveHost (.writeCmd w) s = .ok (t, .nothing) := by
  rw [serveHost_writeCmd free, settle_of_single rfl went.step_eq]

/-- 20_memory R50: with nothing on CMD, the transaction of a word is answered, with what one step leaves. -/
theorem exists_serveHost_writeCmd {s : State} (free : s.cmd = []) (w : CmdWord) :
    ∃ t, serveHost (.writeCmd w) s = .ok (t, .nothing) ∧ step { s with cmd := [w] } = .next t := by
  obtain ⟨t, went⟩ := exists_stepTo { s with cmd := [w] }
  exact ⟨t, serveHost_writeCmd_of_step free went, went.step_eq⟩

/-- 20_memory R50, from the other side: what the transaction of a word left is what one step leaves. -/
theorem stepTo_of_writeCmd {s t : State} {w : CmdWord} {reply : HostReply} (free : s.cmd = [])
    (served : serveHost (.writeCmd w) s = .ok (t, reply)) : StepTo { s with cmd := [w] } t := by
  obtain ⟨t', went⟩ := exists_stepTo { s with cmd := [w] }
  cases (serveHost_writeCmd_of_step free went).symm.trans served
  exact went

/-- Settles O46: the three answers of a read. -/
theorem hostReadsHaveNoSideEffect : Obligations.HostReadsHaveNoSideEffect := fun s =>
  ⟨serveHost_readStatus s, fun _ => serveHost_readDigest, fun _ => serveHost_readDigest_refused⟩

/-- An UPDATE at the head of CMD whose payload is not complete holds the engine (70_reset_and_hazards R126). -/
theorem step_of_waiting {s : State} {w : CmdWord} {rest : List CmdWord} {len : Nat} (words : s.cmd = w :: rest)
    (decoded : decode w = .ok (.update len)) (short : s.din.length < len) : step s = .next s := by
  rw [step_of_decode words decoded, exec_update_waits short]

/-- 70_reset_and_hazards R126: the word of an UPDATE whose payload is not complete is only put on CMD. -/
theorem serveHost_writeCmd_of_waiting {s : State} {w : CmdWord} {len : Nat} (free : s.cmd = [])
    (decoded : decode w = .ok (.update len)) (short : s.din.length < len) :
    serveHost (.writeCmd w) s = .ok ({ s with cmd := [w] }, .nothing) := by
  rw [serveHost_writeCmd free, settle_of_held (step_of_waiting (s := { s with cmd := [w] }) rfl decoded short)]

/-- 70_reset_and_hazards R126: a byte that does not complete the UPDATE at the head of CMD is only added to DIN. -/
theorem serveHost_writeDin_of_waiting {s : State} {w : CmdWord} {rest : List CmdWord} {len : Nat} (b : Byte)
    (words : s.cmd = w :: rest) (decoded : decode w = .ok (.update len)) (short : s.din.length + 1 < len) :
    serveHost (.writeDin b) s = .ok ({ s with din := s.din ++ [b] }, .nothing) := by
  have still : (s.din ++ [b]).length < len := by simpa using short
  rw [serveHost_writeDin, settle_of_held (step_of_waiting (s := { s with din := s.din ++ [b] }) words decoded still)]

/-- Settles O52: in each case the engine holds, or has no word, or refuses. -/
theorem hostWritesThatRunNothing : Obligations.HostWritesThatRunNothing := by
  refine ⟨fun s w len => serveHost_writeCmd_of_waiting, fun s b w rest len => serveHost_writeDin_of_waiting b,
    fun s w busy => serveHost_writeCmd_refused busy w, fun s b free => ?_⟩
  rw [serveHost_writeDin, settle_of_nil (s := { s with din := s.din ++ [b] }) free]

/-- 70_reset_and_hazards R126: an UPDATE that has exactly its payload on DIN completes and leaves none of it. -/
theorem ExecTo.empties_din {s t : State} {len : Nat} (ran : ExecTo s (.update len) t) (whole : s.din.length = len) :
    t.cmd = s.cmd.tail ∧ t.din = [] := by
  have empty : s.din.drop len = [] := List.drop_of_length_le whole.le
  cases ran with
  | waits short => omega
  | update _ _ | updateRefused _ _ => exact ⟨by simp, by simpa [drainedBytes] using empty⟩

/-- Settles O53: the word runs in one step, and so does the UPDATE when the last byte is there. -/
theorem commandRunsInItsTransaction : Obligations.CommandRunsInItsTransaction := by
  refine ⟨fun s w free => exists_serveHost_writeCmd free w, fun s w b words decoded => ?_⟩
  obtain ⟨t, ran⟩ := exists_execTo { s with din := s.din ++ [b] } (.update (s.din.length + 1))
  obtain ⟨cmd, din⟩ := ran.empties_din (by simp)
  have went : StepTo { s with din := s.din ++ [b] } t := .command words decoded ran
  exact ⟨t, serveHost_writeDin_of_step words went, ran.exec_eq, by rw [cmd, words, List.tail_cons], din⟩

/-! Runs of commands. -/

/-- One command of a run. -/
theorem runCommands_succ {s t : State} (went : StepTo s t) (k : Nat) : runCommands (k + 1) s = runCommands k t := by
  rw [runCommands, went.step_eq]

/-- What every step keeps, the commands of a host transaction keep. -/
theorem settle_keeps {P : State → Prop} (keeps : ∀ {s t}, P s → StepTo s t → P t) {s : State} (base : P s) :
    P (settle s) :=
  runCommands_keeps (fun _ _ kept stepped => keeps kept (stepTo_of_step stepped)) _ s base

/-- 20_memory R47: a run takes words off the front of CMD and puts none there. -/
theorem settle_cmd_suffix (s : State) : (settle s).cmd <:+ s.cmd :=
  settle_keeps (P := fun t => t.cmd <:+ s.cmd) (fun kept went => went.cmd_suffix.trans kept) List.suffix_rfl

/-- A run over as many commands as there are words ends where nothing that could run waits. -/
theorem runCommands_settled {k : Nat} {s : State} (enough : s.cmd.length ≤ k) : Settled (runCommands k s) := by
  induction k generalizing s with
  | zero => exact settled_of_nil (List.length_eq_zero_iff.mp (Nat.le_zero.mp enough))
  | succ k ih =>
    obtain ⟨t, went⟩ := exists_stepTo s
    rcases went.settled_or_takes with ⟨rfl, settled⟩ | ⟨w, takes⟩
    · rwa [runCommands_of_held went.step_eq]
    · rw [runCommands_succ went]
      rw [takes, List.length_cons] at enough
      exact ih (by omega)

theorem settle_settled (s : State) : Settled (settle s) := runCommands_settled le_rfl

/-- 70_reset_and_hazards R126: where nothing that could run waits, a step changes nothing. -/
theorem Settled.step_eq {s : State} (settled : Settled s) : step s = .next s := by
  cases words : s.cmd with
  | nil => exact step_of_nil words
  | cons w rest =>
    obtain ⟨len, decoded, short⟩ := settled w rest words
    exact step_of_waiting words decoded short

/-- Settles O54: a write ends with a run, a reset empties CMD, a read changes nothing; a run takes words off only. -/
theorem hostLeavesNoCommandToRun : Obligations.HostLeavesNoCommandToRun := by
  refine ⟨settled_of_nil rfl, fun r s t reply settled served => ?_⟩
  suffices Settled t ∧ (s.cmd.length ≤ 1 → t.cmd.length ≤ 1) from ⟨this.1, this.1.step_eq, this.2⟩
  rcases serveHost_cases served with
    ⟨w, -, -, rfl, -⟩ | ⟨b, -, rfl, -⟩ | ⟨-, rfl, -⟩ | ⟨i, b, -, rfl, -, -⟩ | ⟨-, rfl, -⟩
  · exact ⟨settle_settled _, fun _ => (settle_cmd_suffix { s with cmd := [w] }).length_le⟩
  · exact ⟨settle_settled _, (settle_cmd_suffix { s with din := s.din ++ [b] }).length_le.trans⟩
  · exact ⟨settled, id⟩
  · exact ⟨settled, id⟩
  · exact ⟨settled_of_nil rfl, fun _ => Nat.zero_le 1⟩

/-! Reset. -/

/-- 10_state R32: DIGEST is zeros after reset. -/
theorem afterReset_digest_toList (k : Nat) : (State.afterReset k).dp.digest.toList = zeros (4 * Config.numWords) :=
  replicate_toList _

/-- Settles O15: the reset state field by field. -/
theorem resetValues : Obligations.ResetValues :=
  ⟨rfl, rfl, rfl, rfl, rfl, afterReset_digest_toList 0, rfl, rfl, rfl⟩

/-- 10_state R21, R28: STATUS reads 1 after an INIT with no error raised. -/
theorem statusWord_of_absorbing {s : State} (absorbing : s.phase = .absorbing) (clear : errorFree s = true) :
    statusWord s = 1 := by
  obtain ⟨illegal, update, finalize⟩ := (errorFree_iff s).mp clear
  simp [statusWord, absorbing, illegal, update, finalize, phaseCode]

/-- Settles O14: the event leaves the reset state of the next number, whose reads are its values, with CMD free; no step
changes the number. -/
theorem hardwareResetWins : Obligations.HardwareResetWins := by
  intro s
  refine ⟨State.afterReset (s.epoch + 1), rfl, rfl, rfl, rfl, rfl, afterReset_digest_toList _, rfl, rfl, rfl, rfl,
    fun i inside => ?_, fun w => exists_serveHost_writeCmd rfl w, ?_, fun s' stepped => ?_⟩
  · rw [serveHost_readDigest inside]
    simp
  · have ran : StepTo { State.afterReset (s.epoch + 1) with cmd := [0x0100000000000000] } _ :=
      .command rfl (decode_init rfl rfl) .init
    refine ⟨_, serveHost_writeCmd_of_step rfl ran, ?_⟩
    rw [serveHost_readStatus, statusWord_of_absorbing rfl rfl]
  · have number := step_epoch stepped
    rw [serveHost, hardwareReset, number]

end Sys2Proof.Machine
end

/-! PROOFS. Which transitions change the phase, DIGEST and the registers (10_state R14, R23, R28, R29). -/

section
namespace Sys2Proof.Machine

/-- 30_encoding R53: INIT has one word. -/
theorem eq_of_decode_init {w : CmdWord} (decoded : decode w = .ok .init) : w = 0x0100000000000000 :=
  (encodeOfDecode w _ decoded).2.symm

/-- 30_encoding R53: FINALIZE has one word. -/
theorem eq_of_decode_finalize {w : CmdWord} (decoded : decode w = .ok .finalize) : w = 0x0300000000000000 :=
  (encodeOfDecode w _ decoded).2.symm

/-- 10_state R28: a step at a word changes the phase as the table says of that word. -/
theorem StepTo.phase_eq {s t : State} {w : CmdWord} {rest : List CmdWord} (went : StepTo s t) (words : s.cmd = w :: rest) :
    t.phase = nextPhase w s.phase := by
  rcases went.of_cons words with ⟨e, undecoded, rfl⟩ | ⟨i, decoded, ran⟩
  · simp [nextPhase, undecoded]
  · cases ran with
    | init => simp [nextPhase, decoded]
    | waits _ | update _ _ | updateRefused _ _ => simp [nextPhase, decoded]
    | finalize absorbing => simp [nextPhase, decoded, absorbing]
    | finalizeRefused refused => simp [nextPhase, decoded, refused]

/-- Only UPDATE words stand on CMD. -/
def OnlyUpdates (s : State) : Prop := ∀ w ∈ s.cmd, ∃ len, decode w = .ok (.update len)

/-- 10_state R28: where only UPDATEs wait, a step keeps the phase, and only UPDATEs wait after it. -/
theorem StepTo.phase_of_onlyUpdates {s t : State} (went : StepTo s t) (updates : OnlyUpdates s) :
    t.phase = s.phase ∧ OnlyUpdates t := by
  refine ⟨?_, fun w mem => updates w (went.cmd_suffix.mem mem)⟩
  cases words : s.cmd with
  | nil =>
    have stepped := went.step_eq
    rw [step_of_nil words] at stepped
    cases stepped
    rfl
  | cons w rest =>
    obtain ⟨len, decoded⟩ := updates w (by simp [words])
    rw [went.phase_eq words, nextPhase, decoded]

/-- Settles O43: the step by `StepTo.phase_eq`; a word on a free CMD is one step, a byte a run of UPDATEs. -/
theorem phaseMachine : Obligations.PhaseMachine := by
  refine ⟨fun s t stepped => ?_, ?_, ?_, ?_, fun s t reply w free served => ?_, fun s t reply b updates served => ?_⟩
  · cases words : s.cmd with
    | nil =>
      rw [step_of_nil words] at stepped
      cases stepped
      rfl
    | cons w rest => exact (stepTo_of_step stepped).phase_eq words
  · intro s t reply served; cases served; rfl
  · intro s t reply served; cases served; rfl
  · intro s t reply i served
    rw [serveHost_readDigest_keeps served]
  · exact (stepTo_of_writeCmd free served).phase_eq rfl
  · cases served
    have kept := settle_keeps (P := fun t => t.phase = s.phase ∧ OnlyUpdates t)
      (fun ⟨same, updates⟩ went => (went.phase_of_onlyUpdates updates).imp_left (·.trans same))
      (s := { s with din := s.din ++ [b] }) ⟨rfl, updates⟩
    exact kept.1

/-- 10_state R23: a step leaves DIGEST or is an accepted FINALIZE. -/
theorem StepTo.digest_eq {s t : State} (went : StepTo s t) :
    t.dp.digest = s.dp.digest ∨ s.phase = .absorbing ∧ ∃ rest, s.cmd = 0x0300000000000000 :: rest := by
  cases went with
  | idle _ => exact .inl rfl
  | illegal _ _ => exact .inl (by simp)
  | command words decoded ran =>
    cases ran with
    | finalize absorbing => exact .inr ⟨absorbing, _, eq_of_decode_finalize decoded ▸ words⟩
    | init | waits _ | update _ _ | updateRefused _ _ | finalizeRefused _ => exact .inl (by simp)

/-- 10_state R23: a run over words none of which is FINALIZE leaves DIGEST. -/
theorem settle_digest {s : State} (other : (0x0300000000000000 : CmdWord) ∉ s.cmd) :
    (settle s).dp.digest = s.dp.digest := by
  have kept := settle_keeps (P := fun t => t.dp.digest = s.dp.digest ∧ (0x0300000000000000 : CmdWord) ∉ t.cmd)
    (fun {t u} ⟨same, other⟩ went => by
      refine ⟨?_, fun mem => other (went.cmd_suffix.mem mem)⟩
      rcases went.digest_eq with kept | ⟨-, rest, words⟩
      · exact kept.trans same
      · simp [words] at other)
    ⟨rfl, other⟩
  exact kept.1

/-- Settles O44: a step that changes DIGEST is an accepted FINALIZE, so a run that does has the FINALIZE word on CMD. -/
theorem onlyFinalizeAndResetWriteDigest : Obligations.OnlyFinalizeAndResetWriteDigest := by
  refine ⟨fun s t stepped changed => (stepTo_of_step stepped).digest_eq.resolve_left changed,
    fun r s t reply served changed => ?_⟩
  rcases serveHost_cases served with
    ⟨w, rfl, -, rfl, -⟩ | ⟨b, -, rfl, -⟩ | ⟨-, rfl, -⟩ | ⟨i, b, -, rfl, -, -⟩ | ⟨rfl, -, -⟩
  · by_cases finalize : w = 0x0300000000000000
    · exact .inr (.inl (finalize ▸ rfl))
    · exact absurd (settle_digest (by simpa [eq_comm] using finalize)) changed
  · by_cases finalize : (0x0300000000000000 : CmdWord) ∈ s.cmd
    · exact .inr (.inr finalize)
    · exact absurd (settle_digest (s := { s with din := s.din ++ [b] }) finalize) changed
  · exact absurd rfl changed
  · exact absurd rfl changed
  · exact .inl rfl

/-- 10_state R29: outside ABSORBING a step leaves the registers and the trace, or is an INIT, which leaves the trace. -/
theorem StepTo.dp_eq {s t : State} (went : StepTo s t) (outside : s.phase ≠ .absorbing) :
    t.dp = s.dp ∨ ∃ rest, s.cmd = 0x0100000000000000 :: rest ∧ t.dp.trace = s.dp.trace := by
  cases went with
  | idle _ => exact .inl rfl
  | illegal _ _ => exact .inl (by simp)
  | command words decoded ran =>
    cases ran with
    | init => exact .inr ⟨_, eq_of_decode_init decoded ▸ words, rfl⟩
    | waits _ | updateRefused _ _ | finalizeRefused _ => exact .inl (by simp)
    | update absorbing _ | finalize absorbing => exact absurd absorbing outside

/-- Settles O45: outside ABSORBING by `StepTo.dp_eq`; a byte on DIN runs nothing while CMD is empty. -/
theorem workingStateChangesOnlyByInitOutsideAbsorbing : Obligations.WorkingStateChangesOnlyByInitOutsideAbsorbing := by
  refine ⟨fun s t outside stepped changed => ((stepTo_of_step stepped).dp_eq outside).resolve_left changed,
    fun s t reply w outside free served changed => ?_, fun r s t reply served changed => ?_⟩
  · obtain ⟨rest, words, trace⟩ := ((stepTo_of_writeCmd free served).dp_eq outside).resolve_left changed
    exact ⟨(List.cons.inj words).1, trace⟩
  · rcases serveHost_cases served with
      ⟨w, rfl, -⟩ | ⟨b, rfl, rfl, -⟩ | ⟨-, rfl, -⟩ | ⟨i, b, -, rfl, -, -⟩ | ⟨rfl, -, -⟩
    · exact .inr (.inl ⟨w, rfl⟩)
    · refine .inr (.inr ⟨b, rfl, fun none => changed ?_⟩)
      rw [settle_of_nil (s := { s with din := s.din ++ [b] }) none]
    · exact absurd rfl changed
    · exact absurd rfl changed
    · exact .inl rfl

end Sys2Proof.Machine
end

/-! PROOFS. States no observer can tell apart: every transition keeps them so, because outside ABSORBING no command reads
`H`, `COUNTER`, `FILL` or `BUF` (10_state R29, R31; 70_reset_and_hazards R120). -/

section
namespace Sys2Proof.Machine

/-- 60_exceptions R110: the same error raised in two states that look the same. -/
theorem SameView.raiseError {s t : State} (same : SameView s t) (c : ErrorCause) :
    SameView (raiseError c s) (raiseError c t) where
  phase := by simpa using same.phase
  errIllegal := by cases c <;> simp [same.errIllegal]
  errUpdatePhase := by cases c <;> simp [same.errUpdatePhase]
  errFinalizePhase := by cases c <;> simp [same.errFinalizePhase]
  digest := by simpa using same.digest
  trace := by simpa using same.trace
  cmd := by simp [same.cmd]
  din := by simp [same.din]
  working := by simpa using same.working

/-- 40_init R66: INIT makes the working registers equal. -/
theorem SameView.initDatapath_eq {s t : State} (same : SameView s t) (A : Algorithm Config.numWords) :
    initDatapath A s.dp = initDatapath A t.dp :=
  datapath_eq rfl rfl (by simp) rfl same.digest same.trace

/-- A completed command that leaves equal registers and touches no error bit leaves states that look the same. -/
theorem SameView.of_completed {s t : State} (same : SameView s t) {dp dp' : Datapath Config.numWords} (regs : dp = dp')
    (phase : Phase) (len : Nat) :
    SameView (retire (consumeSpan len { s with dp := dp, phase := phase }))
      (retire (consumeSpan len { t with dp := dp', phase := phase })) := by
  subst regs
  exact ⟨rfl, same.errIllegal, same.errUpdatePhase, same.errFinalizePhase, rfl, rfl, congrArg List.tail same.cmd,
    congrArg (List.drop len) same.din, fun _ => rfl⟩

/-- A command goes the same way in two states that look the same, and they look the same after it. -/
theorem ExecTo.sameView {i : Instr} {s t s' : State} (same : SameView s t) (ran : ExecTo s i s') :
    ∃ t', ExecTo t i t' ∧ SameView s' t' := by
  cases ran with
  | init => exact ⟨_, .init, same.of_completed (same.initDatapath_eq _) .absorbing 0⟩
  | waits short => exact ⟨t, .waits (same.din ▸ short), same⟩
  | @update len absorbing present =>
    have regs : absorb Config.algorithm (spanBytes len s) s.dp = absorb Config.algorithm (spanBytes len t) t.dp := by
      rw [same.working absorbing, spanBytes, spanBytes, same.din]
    have after := same.of_completed regs s.phase len
    exact ⟨_, .update (same.phase ▸ absorbing) (same.din ▸ present), by rwa [same.phase] at after ⊢⟩
  | updateRefused refused present =>
    exact ⟨_, .updateRefused (same.phase ▸ refused) (same.din ▸ present), same.raiseError _⟩
  | finalize absorbing =>
    have regs := congrArg (finish Config.algorithm) (same.working absorbing)
    exact ⟨_, .finalize (same.phase ▸ absorbing), same.of_completed regs .consumed 0⟩
  | finalizeRefused refused => exact ⟨_, .finalizeRefused (same.phase ▸ refused), same.raiseError _⟩

/-- A step goes the same way in two states that look the same, and they look the same after it. -/
theorem StepTo.sameView {s t s' : State} (same : SameView s t) (went : StepTo s s') :
    ∃ t', StepTo t t' ∧ SameView s' t' := by
  cases went with
  | idle none => exact ⟨t, .idle (same.cmd ▸ none), same⟩
  | illegal words undecoded => exact ⟨_, .illegal (same.cmd ▸ words) undecoded, same.raiseError _⟩
  | command words decoded ran =>
    obtain ⟨t', ran', after⟩ := ran.sameView same
    exact ⟨t', .command (same.cmd ▸ words) decoded ran', after⟩

theorem SameView.runCommands {s t : State} (same : SameView s t) (k : Nat) :
    SameView (runCommands k s) (runCommands k t) := by
  induction k generalizing s t with
  | zero => exact same
  | succ k ih =>
    obtain ⟨s', went⟩ := exists_stepTo s
    obtain ⟨t', went', after⟩ := went.sameView same
    rw [runCommands_succ went, runCommands_succ went']
    exact ih after

theorem SameView.settle {s t : State} (same : SameView s t) : SameView (settle s) (settle t) := by
  rw [Machine.settle, Machine.settle, same.cmd]
  exact same.runCommands _

theorem SameView.withCmd {s t : State} (same : SameView s t) (words : List CmdWord) :
    SameView { s with cmd := words } { t with cmd := words } :=
  { same with cmd := rfl }

theorem SameView.withByte {s t : State} (same : SameView s t) (b : Byte) :
    SameView { s with din := s.din ++ [b] } { t with din := t.din ++ [b] } :=
  { same with din := congrArg (· ++ [b]) same.din }

/-- 10_state R21: STATUS is the same in two states that look the same. -/
theorem SameView.statusWord_eq {s t : State} (same : SameView s t) : statusWord s = statusWord t := by
  simp only [statusWord, same.phase, same.errIllegal, same.errUpdatePhase, same.errFinalizePhase]

/-- 70_reset_and_hazards R120: any two resets leave states that look the same. -/
theorem sameView_afterReset (j k : Nat) : SameView (State.afterReset j) (State.afterReset k) :=
  ⟨rfl, rfl, rfl, rfl, rfl, rfl, rfl, rfl, nofun⟩

/-- 60_exceptions R116: two states that look the same answer alike, refusals included. -/
theorem SameView.reply_eq {s t : State} (same : SameView s t) (r : HostRequest) :
    (serveHost r s).map (·.2) = (serveHost r t).map (·.2) := by
  cases r with
  | writeCmd w =>
    by_cases free : s.cmd = []
    · rw [serveHost_writeCmd free, serveHost_writeCmd (same.cmd ▸ free)]; rfl
    · rw [serveHost_writeCmd_refused free, serveHost_writeCmd_refused (same.cmd ▸ free)]
  | writeDin b => rfl
  | readStatus => exact congrArg (fun v => Except.ok (HostReply.status v)) same.statusWord_eq
  | readDigest i =>
    by_cases inside : i < 4 * Config.numWords
    · rw [serveHost_readDigest inside, serveHost_readDigest inside, same.digest]; rfl
    · have outside := Nat.not_lt.mp inside
      rw [serveHost_readDigest_refused outside, serveHost_readDigest_refused outside]
  | reset => rfl

/-- Two states that look the same do so after the same host transaction. -/
theorem SameView.serveHost {s t s' t' : State} {r : HostRequest} {a b : HostReply} (same : SameView s t)
    (served : serveHost r s = .ok (s', a)) (served' : serveHost r t = .ok (t', b)) : SameView s' t' := by
  cases r with
  | writeCmd w =>
    by_cases free : s.cmd = []
    · rw [serveHost_writeCmd free] at served
      rw [serveHost_writeCmd (same.cmd ▸ free)] at served'
      cases served
      cases served'
      exact (same.withCmd [w]).settle
    · rw [serveHost_writeCmd_refused free] at served; contradiction
  | writeDin b => cases served; cases served'; exact (same.withByte b).settle
  | readStatus => cases served; cases served'; exact same
  | readDigest i => rwa [serveHost_readDigest_keeps served, serveHost_readDigest_keeps served']
  | reset => cases served; cases served'; exact sameView_afterReset _ _

/-- Settles O50: the step by `StepTo.sameView`, the transactions of the host case by case. -/
theorem leftoversCannotBeObserved : Obligations.LeftoversCannotBeObserved := by
  refine ⟨fun s t s' t' same stepped stepped' => ?_, fun s t r same => same.reply_eq r,
    fun s t s' t' r a b same served served' => same.serveHost served served', sameView_afterReset⟩
  obtain ⟨t'', went, after⟩ := (stepTo_of_step stepped).sameView same
  cases stepped'.symm.trans went.step_eq
  exact after

end Sys2Proof.Machine
end

/-! PROOFS. A byte sequence as its whole blocks and the rest, and the requests an UPDATE makes of the two (41_update R78,
43_compression_primitive R98). -/

section
namespace Sys2Proof.Machine

/-- What the whole blocks of a message leave over: its last `len mod 64` bytes (10_state R30). -/
def restPart (m : List Byte) : List Byte := m.drop (64 * (m.length / 64))

theorem wholePart_append_restPart (m : List Byte) : wholePart m ++ restPart m = m := List.take_append_drop _ _

theorem wholePart_length (m : List Byte) : (wholePart m).length = 64 * (m.length / 64) := by
  rw [wholePart, List.length_take]; omega

theorem restPart_length (m : List Byte) : (restPart m).length = m.length % 64 := by
  rw [restPart, List.length_drop]; omega

theorem wholePart_of_short {m : List Byte} (short : m.length < 64) : wholePart m = [] := by
  rw [wholePart, Nat.div_eq_of_lt short]; rfl

theorem restPart_of_short {m : List Byte} (short : m.length < 64) : restPart m = m := by
  rw [restPart, Nat.div_eq_of_lt short]; rfl

section
variable {b : List Byte} {k : Nat} (r : List Byte) (whole : b.length = 64 * k)
include whole

/-- Whole blocks in front of a sequence are whole blocks of the joined one. -/
theorem wholePart_append : wholePart (b ++ r) = b ++ wholePart r := by
  have count : 64 * ((b ++ r).length / 64) = b.length + 64 * (r.length / 64) := by rw [List.length_append]; omega
  rw [wholePart, count, List.take_length_add_append, wholePart]

/-- Whole blocks in front of a sequence leave the rest as it is. -/
theorem restPart_append : restPart (b ++ r) = restPart r := by
  have count : 64 * ((b ++ r).length / 64) = b.length + 64 * (r.length / 64) := by rw [List.length_append]; omega
  rw [restPart, count, List.drop_length_add_append, restPart]

end

/-- The whole blocks of a message and what follows it: those of the message, then those of its rest and what follows. -/
theorem wholePart_append_eq (m r : List Byte) : wholePart (m ++ r) = wholePart m ++ wholePart (restPart m ++ r) := by
  rw [← wholePart_append _ (wholePart_length m), ← List.append_assoc, wholePart_append_restPart]

theorem restPart_append_eq (m r : List Byte) : restPart (m ++ r) = restPart (restPart m ++ r) := by
  rw [← restPart_append (restPart m ++ r) (wholePart_length m), ← List.append_assoc, wholePart_append_restPart]

/-- The request for all whole blocks of a span, if it has any (41_update R76). -/
def wholeRequest (m : List Byte) : List CompRequest := if 64 ≤ m.length then [⟨m.length / 64, wholePart m⟩] else []

theorem wholeRequest_of_short {m : List Byte} (short : m.length < 64) : wholeRequest m = [] :=
  if_neg (Nat.not_le.mpr short)

theorem wholeRequest_of_long {m : List Byte} (long : 64 ≤ m.length) :
    wholeRequest m = [⟨m.length / 64, wholePart m⟩] := if_pos long

theorem blockTrace_wholeRequest (m : List Byte) : blockTrace (wholeRequest m) = wholePart m := by
  by_cases long : 64 ≤ m.length
  · rw [wholeRequest_of_long long, blockTrace_single]
  · rw [wholeRequest_of_short (by omega), wholePart_of_short (by omega), blockTrace_nil]

/-- 43_compression_primitive R98: at most one request, of complete blocks. -/
theorem wholeRequest_complete (m : List Byte) :
    (wholeRequest m).length ≤ 1 ∧ ∀ r ∈ wholeRequest m, CompleteRequest r := by
  by_cases long : 64 ≤ m.length
  · rw [wholeRequest_of_long long]
    exact ⟨le_rfl, List.forall_mem_singleton.mpr ⟨(Nat.one_le_div_iff (by decide)).mpr long, wholePart_length m⟩⟩
  · rw [wholeRequest_of_short (by omega)]
    exact ⟨Nat.zero_le 1, nofun⟩

section
variable {tail span : List Byte}

/-- 41_update R78: no whole block, no request. -/
theorem updateRequests_of_short (short : tail.length + span.length < 64) : updateRequests tail span = [] := by
  simp only [updateRequests, Nat.div_eq_of_lt short, if_true]

/-- 41_update R78: with an empty buffer, one request straight from the span. -/
theorem updateRequests_of_empty (span : List Byte) : updateRequests [] span = wholeRequest span := by
  by_cases long : 64 ≤ span.length
  · have some : span.length / 64 ≠ 0 := by omega
    simp [updateRequests, wholeRequest_of_long long, wholePart, some]
  · rw [wholeRequest_of_short (by omega), updateRequests_of_short (by simpa using long)]

/-- 41_update R78: with a non-empty buffer, the completed block, then the whole blocks of what follows it. -/
theorem updateRequests_of_long (some : 0 < tail.length) (unfilled : tail.length < 64)
    (long : 64 ≤ tail.length + span.length) :
    updateRequests tail span =
      ⟨1, tail ++ span.take (64 - tail.length)⟩ :: wholeRequest (span.drop (64 - tail.length)) := by
  have rest : (tail.length + span.length) / 64 - 1 = (span.length - (64 - tail.length)) / 64 := by omega
  have nonzero : (tail.length + span.length) / 64 ≠ 0 := by omega
  simp only [updateRequests, rest, if_neg nonzero, if_neg some.ne', wholeRequest, wholePart, List.length_drop]
  by_cases one : (tail.length + span.length) / 64 = 1
  · rw [if_pos one, if_neg (by omega)]
  · rw [if_neg one, if_pos (by omega)]

/-- The block that completes a tail: as many bytes of the span as there is room for (41_update R75). -/
theorem completedBlock_length (unfilled : tail.length < 64) (long : 64 ≤ tail.length + span.length) :
    (tail ++ span.take (64 - tail.length)).length = 64 := by
  rw [List.length_append, List.length_take]; omega

/-- The whole blocks of tail and span: the completed block, then those of what follows it. -/
theorem wholePart_of_completed (unfilled : tail.length < 64) (long : 64 ≤ tail.length + span.length) :
    wholePart (tail ++ span) =
      tail ++ span.take (64 - tail.length) ++ wholePart (span.drop (64 - tail.length)) := by
  rw [← wholePart_append (k := 1) _ (completedBlock_length unfilled long), List.append_assoc, List.take_append_drop]

/-- The rest of tail and span: that of what follows the completed block. -/
theorem restPart_of_completed (unfilled : tail.length < 64) (long : 64 ≤ tail.length + span.length) :
    restPart (tail ++ span) = restPart (span.drop (64 - tail.length)) := by
  rw [← restPart_append (k := 1) (span.drop _) (completedBlock_length unfilled long), List.append_assoc, List.take_append_drop]

/-- 41_update R78: the requests carry the whole blocks of tail and span. -/
theorem blockTrace_updateRequests (unfilled : tail.length < 64) :
    blockTrace (updateRequests tail span) = wholePart (tail ++ span) := by
  by_cases short : tail.length + span.length < 64
  · rw [updateRequests_of_short short, wholePart_of_short (by simpa using short), blockTrace_nil]
  by_cases empty : tail = []
  · subst empty
    rw [updateRequests_of_empty, blockTrace_wholeRequest, List.nil_append]
  · have long : 64 ≤ tail.length + span.length := Nat.not_lt.mp short
    rw [updateRequests_of_long (List.length_pos_iff.mpr empty) unfilled long, wholePart_of_completed unfilled long,
      ← blockTrace_wholeRequest]
    rfl

/-- 43_compression_primitive R98, R100: at most two requests, of complete blocks. -/
theorem updateRequests_complete (unfilled : tail.length < 64) :
    (updateRequests tail span).length ≤ 2 ∧ ∀ r ∈ updateRequests tail span, CompleteRequest r := by
  by_cases short : tail.length + span.length < 64
  · rw [updateRequests_of_short short]
    exact ⟨Nat.zero_le 2, nofun⟩
  by_cases empty : tail = []
  · subst empty
    rw [updateRequests_of_empty]
    obtain ⟨count, complete⟩ := wholeRequest_complete span
    exact ⟨count.trans one_le_two, complete⟩
  · have long : 64 ≤ tail.length + span.length := Nat.not_lt.mp short
    obtain ⟨count, complete⟩ := wholeRequest_complete (span.drop (64 - tail.length))
    rw [updateRequests_of_long (List.length_pos_iff.mpr empty) unfilled long]
    exact ⟨Nat.succ_le_succ count, List.forall_mem_cons.mpr ⟨⟨le_rfl, completedBlock_length unfilled long⟩, complete⟩⟩

end

end Sys2Proof.Machine
end

/-! PROOFS. UPDATE in closed form: `FILL`, `H`, the requests and `BUF` after an accepted UPDATE by the old tail and the span
(41_update R75 to R78). -/

section
namespace Sys2Proof.Machine

section
variable {n : Nat} (A : Algorithm n) (span : List Byte) (dp : Datapath n)

/-- 10_state R17: the tail has `FILL` bytes. -/
theorem tailBytes_length : (tailBytes dp).length = dp.fill.toNat := by
  have := dp.fill.isLt
  rw [tailBytes, List.length_take, Vector.length_toList]; omega

/-- 10_state R17: with `FILL` 0 there is no tail. -/
theorem tailBytes_of_empty {dp : Datapath n} (empty : dp.fill.toNat = 0) : tailBytes dp = [] := by
  rw [tailBytes, empty, List.take_zero]

/-- 10_state R17: the tail is less than a block. -/
theorem tailBytes_length_lt : (tailBytes dp).length < 64 := tailBytes_length dp ▸ dp.fill.isLt

/-! S3 and S4 from a cursor, by what is left of the span. -/

/-- 41_update R76: the blocks S3 sends. -/
theorem sliceBytes_wholeBlocks (cursor : Nat) :
    sliceBytes span cursor (64 * wholeBlocks span cursor) = wholePart (span.drop cursor) := by
  rw [sliceBytes, wholeBlocks, wholePart, List.length_drop]

theorem absorbFrom_h (cursor : Nat) :
    (absorbFrom A span cursor dp).h = compressN A dp.h (wholePart (span.drop cursor)) := by
  rw [absorbFrom_cases, sliceBytes_wholeBlocks]
  split
  next small => rw [storeRemainder_h, wholePart_of_short (by simpa using small), compressN_nil]
  next => rw [storeRemainder_h, comp_h]

theorem absorbFrom_trace (cursor : Nat) :
    (absorbFrom A span cursor dp).trace = dp.trace ++ wholeRequest (span.drop cursor) := by
  rw [absorbFrom_cases, sliceBytes_wholeBlocks]
  split
  next small => rw [storeRemainder_trace, wholeRequest_of_short (by simpa using small), List.append_nil]
  next big =>
    have long : 64 ≤ (span.drop cursor).length := by simpa using Nat.not_lt.mp big
    rw [storeRemainder_trace, comp_trace, wholeRequest_of_long long, wholePart_length, Nat.mul_div_cancel_left _ (by decide)]

/-- 41_update R77: S4 stores what is left of the span at the start of `BUF` and leaves the other bytes. -/
theorem storeRemainder_toList {cursor : Nat} (small : span.length - cursor < 64) :
    (storeRemainder span cursor dp).buf.toList = span.drop cursor ++ dp.buf.toList.drop (span.length - cursor) := by
  unfold storeRemainder
  split
  next =>
    have length := sliceBytes_length span cursor (span.length - cursor) (by omega)
    rw [memWrite_toList _ _ _ (by omega), length]
    simp [sliceBytes]
  next none =>
    have none : span.length - cursor = 0 := Nat.eq_zero_of_not_pos none
    rw [none, List.drop_eq_nil_of_le (Nat.sub_eq_zero_iff_le.mp none), List.nil_append, List.drop_zero]

/-- 41_update R77: `FILL` counts what S4 stored. -/
theorem storeRemainder_fill {dp : Datapath n} {cursor : Nat} (small : span.length - cursor < 64)
    (empty : dp.fill.toNat = 0) : (storeRemainder span cursor dp).fill.toNat = span.length - cursor := by
  unfold storeRemainder
  split
  next => exact Nat.mod_eq_of_lt small
  next none => rw [empty, Nat.eq_zero_of_not_pos none]

/-- 41_update R76, R77: the rest of the remaining span stands at the start of `BUF`, whose other bytes stay. -/
theorem absorbFrom_buf {cursor : Nat} :
    (absorbFrom A span cursor dp).buf.toList =
      restPart (span.drop cursor) ++ dp.buf.toList.drop ((span.length - cursor) % 64) := by
  have left : span.length - (cursor + 64 * wholeBlocks span cursor) = (span.length - cursor) % 64 := by
    unfold wholeBlocks; omega
  rw [absorbFrom_cases]
  split
  next small =>
    rw [storeRemainder_toList _ _ small, restPart_of_short (by simpa using small), Nat.mod_eq_of_lt small]
  next =>
    rw [storeRemainder_toList _ _ (by omega), left, comp_buf, restPart, List.drop_drop, List.length_drop, wholeBlocks]

/-- 41_update R76, R77: `FILL` counts the rest of the remaining span. -/
theorem absorbFrom_fill {dp : Datapath n} {cursor : Nat} (empty : dp.fill.toNat = 0) :
    (absorbFrom A span cursor dp).fill.toNat = (span.length - cursor) % 64 := by
  have left : span.length - (cursor + 64 * wholeBlocks span cursor) = (span.length - cursor) % 64 := by
    unfold wholeBlocks; omega
  rw [absorbFrom_cases]
  split
  next small => rw [storeRemainder_fill _ small empty, Nat.mod_eq_of_lt small]
  next => rw [storeRemainder_fill _ (by omega) (by simpa using empty), left]

/-! The other two branches of S2. -/

variable {span dp}

/-- 41_update R73: with an empty buffer S2 does nothing. -/
theorem absorb_of_empty (empty : dp.fill.toNat = 0) :
    absorb A span dp = absorbFrom A span 0 (addToCounter span.length dp) := by
  rcases absorb_cases A span dp with ⟨-, e⟩ | ⟨some, -⟩ | ⟨some, -⟩
  · exact e
  · omega
  · omega

/-- The registers after the block in a non-empty buffer is completed, sent and cleared (41_update R75). -/
def flushed (span : List Byte) (dp : Datapath n) : Datapath n :=
  flushBlock A (fillBlock (64 - dp.fill.toNat) span (addToCounter span.length dp))

/-- 41_update R75: a span that reaches the end of the block takes the second branch of S2. -/
theorem absorb_of_long (some : 0 < dp.fill.toNat) (long : 64 ≤ dp.fill.toNat + span.length) :
    absorb A span dp = absorbFrom A span (64 - dp.fill.toNat) (flushed A span dp) := by
  rcases absorb_cases A span dp with ⟨empty, -⟩ | ⟨-, short, -⟩ | ⟨-, -, e⟩
  · omega
  · omega
  · exact e

/-- 41_update R75: the block that is sent is the tail and as much of the span as there is room for. -/
theorem fillBlock_toList (long : 64 ≤ dp.fill.toNat + span.length) :
    (fillBlock (64 - dp.fill.toNat) span dp).buf.toList = tailBytes dp ++ span.take (64 - dp.fill.toNat) := by
  have := dp.fill.isLt
  have length := sliceBytes_length span 0 (64 - dp.fill.toNat) (by omega)
  rw [fillBlock_buf, memWrite_toList _ _ _ (by omega), length, List.drop_eq_nil_of_le (by simp; omega), List.append_nil]
  rfl

theorem flushed_buf : (flushed A span dp).buf.toList = zeros 64 := by
  rw [flushed, flushBlock_buf, memWrite_zeros64, replicate_toList]

section
variable (long : 64 ≤ dp.fill.toNat + span.length)
include long

theorem flushed_h :
    (flushed A span dp).h = compressN A dp.h (tailBytes dp ++ span.take (64 - dp.fill.toNat)) := by
  have block := fillBlock_toList (dp := addToCounter span.length dp) long
  rw [flushed, flushBlock_h, memRead_all]
  exact congrArg (compressN A dp.h) block

theorem flushed_trace :
    (flushed A span dp).trace = dp.trace ++ [⟨1, tailBytes dp ++ span.take (64 - dp.fill.toNat)⟩] := by
  have block := fillBlock_toList (dp := addToCounter span.length dp) long
  rw [flushed, flushBlock_trace, memRead_all, Vector.length_toList]
  exact congrArg (fun blocks => dp.trace ++ [⟨1, blocks⟩]) block

end

/-! The closed form. -/

/-- 41_update R78: `FILL` is the length of tail and span modulo 64. -/
theorem absorb_fill : (absorb A span dp).fill.toNat = (dp.fill.toNat + span.length) % 64 := by
  have := dp.fill.isLt
  by_cases empty : dp.fill.toNat = 0
  · rw [absorb_of_empty A empty, absorbFrom_fill _ _ (by simpa using empty), empty, Nat.sub_zero, Nat.zero_add]
  by_cases short : dp.fill.toNat + span.length < 64
  · rw [absorb_of_short A (by omega) (by omega), appendSpan_fill_toNat (by simpa using short), addToCounter_fill,
      Nat.mod_eq_of_lt short]
  · rw [absorb_of_long A (by omega) (by omega), absorbFrom_fill _ _ (by simp [flushed])]
    omega

/-- 41_update R78: `H` is folded over the whole blocks of tail and span. -/
theorem absorb_h : (absorb A span dp).h = compressN A dp.h (wholePart (tailBytes dp ++ span)) := by
  have length := tailBytes_length dp
  by_cases empty : dp.fill.toNat = 0
  · rw [absorb_of_empty A empty, absorbFrom_h, tailBytes_of_empty empty]; rfl
  by_cases short : dp.fill.toNat + span.length < 64
  · rw [absorb_of_short A (by omega) (by omega), wholePart_of_short (by simpa [length] using short), compressN_nil]; rfl
  · have long := Nat.not_lt.mp short
    have block := completedBlock_length (tailBytes_length_lt dp) (length ▸ long)
    rw [absorb_of_long A (by omega) long, absorbFrom_h, flushed_h A long, ← length,
      wholePart_of_completed (tailBytes_length_lt dp) (length ▸ long), compressN_append A _ _ (k := 1) block]

/-- 41_update R78: the requests are those of the case table. -/
theorem absorb_trace : (absorb A span dp).trace = dp.trace ++ updateRequests (tailBytes dp) span := by
  have length := tailBytes_length dp
  by_cases empty : dp.fill.toNat = 0
  · rw [absorb_of_empty A empty, absorbFrom_trace, tailBytes_of_empty empty, updateRequests_of_empty]; rfl
  by_cases short : dp.fill.toNat + span.length < 64
  · rw [absorb_of_short A (by omega) (by omega), updateRequests_of_short (by rwa [length]), List.append_nil]; rfl
  · have long := Nat.not_lt.mp short
    rw [absorb_of_long A (by omega) long, absorbFrom_trace, flushed_trace A long, ← length,
      updateRequests_of_long (by omega) (tailBytes_length_lt dp) (by omega), List.append_assoc]
    rfl

/-- 43_compression_primitive R102: the block trace grows by the whole blocks of tail and span. -/
theorem absorb_blockTrace :
    blockTrace (absorb A span dp).trace = blockTrace dp.trace ++ wholePart (tailBytes dp ++ span) := by
  rw [absorb_trace, blockTrace_append, blockTrace_updateRequests (tailBytes_length_lt dp)]

/-- 41_update R74, R77: where tail and span make no whole block, `H` and the trace stay. -/
theorem absorb_of_no_block (short : dp.fill.toNat + span.length < 64) :
    (absorb A span dp).h = dp.h ∧ (absorb A span dp).trace = dp.trace := by
  have length := tailBytes_length dp
  rw [absorb_h, absorb_trace, wholePart_of_short (by simpa [length] using short),
    updateRequests_of_short (by rwa [length]), compressN_nil, List.append_nil]
  exact ⟨rfl, rfl⟩

/-- 41_update R76, R77: into an empty buffer, the rest of the span and the old bytes behind it. -/
theorem absorb_buf_of_empty (empty : dp.fill.toNat = 0) :
    (absorb A span dp).buf.toList = restPart span ++ dp.buf.toList.drop (span.length % 64) := by
  rw [absorb_of_empty A empty, absorbFrom_buf]; rfl

/-- 41_update R75, R77: after a block is flushed, the rest of tail and span and zeros, whatever `BUF` held behind the tail. -/
theorem absorb_buf_of_long (some : 0 < dp.fill.toNat) (long : 64 ≤ dp.fill.toNat + span.length) :
    (absorb A span dp).buf.toList =
      restPart (tailBytes dp ++ span) ++ zeros (64 - (tailBytes dp ++ span).length % 64) := by
  have length := tailBytes_length dp
  have left : (span.length - (64 - dp.fill.toNat)) % 64 = (dp.fill.toNat + span.length) % 64 := by omega
  rw [absorb_of_long A some long, absorbFrom_buf, flushed_buf A, zeros_drop, left, ← length,
    restPart_of_completed (tailBytes_length_lt dp) (length ▸ long), List.length_append]

/-- 10_state R19: the zero tail as an equation on the whole buffer. -/
theorem TailZero.buf_eq (zero : TailZero dp) : dp.buf.toList = tailBytes dp ++ zeros (64 - dp.fill.toNat) := by
  rw [← zero, tailBytes, List.take_append_drop]

/-- 10_state R17, R19: a buffer of `FILL` bytes and zeros has the zero tail, and these bytes are its tail. -/
theorem tailZero_of_buf {tail : List Byte} (length : tail.length = dp.fill.toNat)
    (buf : dp.buf.toList = tail ++ zeros (64 - dp.fill.toNat)) : TailZero dp ∧ tailBytes dp = tail := by
  rw [TailZero, tailBytes, buf]
  exact ⟨List.drop_left' length, List.take_left' length⟩

/-- 41_update R78: with the zero tail, `BUF` is the rest of tail and span and zeros. -/
theorem absorb_buf (zero : TailZero dp) :
    (absorb A span dp).buf.toList =
      restPart (tailBytes dp ++ span) ++ zeros (64 - (tailBytes dp ++ span).length % 64) := by
  have length := tailBytes_length dp
  by_cases empty : dp.fill.toNat = 0
  · rw [absorb_buf_of_empty A empty, zero.buf_eq, tailBytes_of_empty empty, empty, List.nil_append, List.nil_append,
      zeros_drop]
  by_cases short : dp.fill.toNat + span.length < 64
  · have joined : (tailBytes dp ++ span).length < 64 := by simpa [length] using short
    rw [absorb_of_short A (by omega) (by omega), appendSpan_toList (by simpa using short.le), restPart_of_short joined,
      Nat.mod_eq_of_lt joined, addToCounter_buf, addToCounter_fill, ← List.drop_drop, zero, zeros_drop, List.length_append,
      length, Nat.sub_sub]
    rfl
  · exact absorb_buf_of_long A (by omega) (by omega)

/-- 10_state R19, 41_update R78: UPDATE keeps the zero tail, and its tail is the rest of tail and span. -/
theorem absorb_tailZero (zero : TailZero dp) :
    TailZero (absorb A span dp) ∧ tailBytes (absorb A span dp) = restPart (tailBytes dp ++ span) := by
  have count : (tailBytes dp ++ span).length % 64 = (absorb A span dp).fill.toNat := by
    rw [absorb_fill, List.length_append, tailBytes_length]
  refine tailZero_of_buf (by rw [restPart_length, count]) ?_
  rw [absorb_buf A zero, count]

/-- 41_update, streaming equivalence: the empty span leaves the registers. -/
theorem absorb_nil : absorb A [] dp = dp := by
  have small : dp.fill.toNat < 64 := dp.fill.isLt
  obtain ⟨h, trace⟩ := absorb_of_no_block A (span := []) (dp := dp) small
  have fill : (absorb A [] dp).fill = dp.fill :=
    BitVec.toNat_inj.mp (by rw [absorb_fill]; exact Nat.mod_eq_of_lt small)
  have buf : (absorb A [] dp).buf = dp.buf := by
    by_cases empty : dp.fill.toNat = 0
    · exact Vector.toList_inj.mp (absorb_buf_of_empty A empty)
    · rw [absorb_of_short A (span := []) (Nat.pos_of_ne_zero empty) (Nat.sub_pos_of_lt small), appendSpan_buf, memWrite_nil]; rfl
  exact datapath_eq h (by simp) buf fill (absorb_digest A [] dp) trace

end

end Sys2Proof.Machine
end

/-! PROOFS. What UPDATE leaves, from its closed form: the exact fill, the empty buffer, streaming, the frame, the requests,
and the message the registers hold (41_update R75 to R78, 10_state R30). -/

section
namespace Sys2Proof.Machine

/-- Settles O23: tail and span are one block, so what follows it is empty. -/
theorem updateExactFillFlushes : Obligations.UpdateExactFillFlushes := by
  intro s len absorbing present some exactly
  have small := s.dp.fill.isLt
  have length : (spanBytes len s).length = len := spanBytes_length present
  have long : 64 ≤ s.dp.fill.toNat + (spanBytes len s).length := by omega
  have tail := tailBytes_length s.dp
  have one : (tailBytes s.dp ++ spanBytes len s).length = 64 := by rw [List.length_append]; omega
  have room : 64 - (tailBytes s.dp).length = (spanBytes len s).length := by omega
  refine ⟨_, exec_update_accepted absorbing present, ?_, ?_, ?_, ?_⟩
  · rw [retire_dp, consumeSpan_dp, absorb_trace, updateRequests_of_long (by omega) (tailBytes_length_lt _) (by omega), room,
      List.take_length, List.drop_length]
    rfl
  · rw [retire_dp, consumeSpan_dp, absorb_h, ← List.append_nil (tailBytes _ ++ _), wholePart_append (k := 1) _ one,
      wholePart_of_short (by decide), List.append_nil, compressN_of_length_64 _ _ one]
    rfl
  · rw [retire_dp, consumeSpan_dp, absorb_buf_of_long _ some long, one, ← List.append_nil (tailBytes _ ++ _),
      restPart_append (k := 1) _ one]
    rfl
  · apply BitVec.toNat_inj.mp
    rw [retire_dp, consumeSpan_dp, absorb_fill, show s.dp.fill.toNat + (spanBytes len s).length = 64 by omega]
    rfl

/-- The whole blocks of a span on DIN (41_update R76). -/
theorem wholePart_spanBytes {len : Nat} {s : State} (present : len ≤ s.din.length) :
    wholePart (spanBytes len s) = s.din.take (64 * (len / 64)) := by
  rw [wholePart, spanBytes_length present, spanBytes, List.take_take, Nat.min_eq_left (Nat.mul_div_le len 64)]

/-- Settles O24: with no tail, the closed form speaks of the span alone. -/
theorem updateEmptyBufferSendsWholeBlocks : Obligations.UpdateEmptyBufferSendsWholeBlocks := by
  intro s len absorbing present none
  have empty : s.dp.fill.toNat = 0 := by rw [none]; rfl
  have length : (spanBytes len s).length = len := spanBytes_length present
  have tail := tailBytes_of_empty empty
  have whole := wholePart_spanBytes present
  refine ⟨_, exec_update_accepted absorbing present, ?_, ?_, ?_, ?_⟩
  · rw [retire_dp, consumeSpan_dp, absorb_trace, tail, updateRequests_of_empty, wholeRequest, length, whole]
  · rw [retire_dp, consumeSpan_dp, absorb_h, tail, List.nil_append, whole]
  · rw [retire_dp, consumeSpan_dp, absorb_buf_of_empty _ empty, restPart, length]; rfl
  · rw [retire_dp, consumeSpan_dp, absorb_fill, empty, length, Nat.zero_add]

/-- Settles O25: the closed form of `absorb`, with `X` the tail and the span. -/
theorem updateClosedForm : Obligations.UpdateClosedForm := by
  intro s len absorbing present zero
  have length : (spanBytes len s).length = len := spanBytes_length present
  refine ⟨_, exec_update_accepted absorbing present, ?_, ?_, absorb_trace _, absorb_digest _ _ _, absorbing, rfl, rfl,
    ⟨rfl, rfl, rfl, rfl⟩⟩
  · rintro X rfl
    refine ⟨?_, absorb_buf _ zero, absorb_h _, absorb_blockTrace _⟩
    rw [retire_dp, consumeSpan_dp, absorb_fill, List.length_append, tailBytes_length, spanBytes]
  · rw [retire_dp, consumeSpan_dp, absorb_counter, length]

section
variable {n : Nat} (A : Algorithm n) {dp : Datapath n}

/-- 41_update, streaming equivalence: absorbing two spans one after the other leaves what absorbing them joined leaves, but
for the grouping into requests. -/
theorem absorb_append (zero : TailZero dp) (a b : List Byte) :
    (absorb A b (absorb A a dp)).h = (absorb A (a ++ b) dp).h ∧
      (absorb A b (absorb A a dp)).counter = (absorb A (a ++ b) dp).counter ∧
      (absorb A b (absorb A a dp)).fill = (absorb A (a ++ b) dp).fill ∧
      (absorb A b (absorb A a dp)).buf = (absorb A (a ++ b) dp).buf ∧
      blockTrace (absorb A b (absorb A a dp)).trace = blockTrace (absorb A (a ++ b) dp).trace := by
  obtain ⟨zero', tail'⟩ := absorb_tailZero A (span := a) zero
  have whole : wholePart (tailBytes dp ++ (a ++ b)) =
      wholePart (tailBytes dp ++ a) ++ wholePart (tailBytes (absorb A a dp) ++ b) := by
    rw [tail', ← List.append_assoc, wholePart_append_eq]
  have rest : restPart (tailBytes dp ++ (a ++ b)) = restPart (tailBytes (absorb A a dp) ++ b) := by
    rw [tail', ← List.append_assoc, restPart_append_eq]
  have count : (tailBytes dp ++ (a ++ b)).length % 64 = (tailBytes (absorb A a dp) ++ b).length % 64 := by
    rw [← restPart_length, rest, restPart_length]
  refine ⟨?_, ?_, ?_, ?_, ?_⟩
  · rw [absorb_h, absorb_h, absorb_h, whole, compressN_append A _ _ (wholePart_length _)]
  · rw [absorb_counter, absorb_counter, absorb_counter, List.length_append, BitVec.ofNat_add, BitVec.add_assoc]
  · apply BitVec.toNat_inj.mp
    rw [absorb_fill, absorb_fill, absorb_fill, List.length_append]
    omega
  · apply Vector.toList_inj.mp
    rw [absorb_buf A zero', absorb_buf A zero, rest, count]
  · rw [absorb_blockTrace, absorb_blockTrace, absorb_blockTrace, whole, List.append_assoc]

end

/-- Settles O26: the two spans are the joined one, and the state after the first is one in which the second is accepted. -/
theorem updateStreamingEquivalence : Obligations.UpdateStreamingEquivalence := by
  intro s a b absorbing present zero
  have left : b ≤ (s.din.drop a).length := by rw [List.length_drop]; omega
  have first := exec_update_accepted (len := a) absorbing (by omega)
  have second := exec_update_accepted (len := b)
    (s := retire (consumeSpan a { s with dp := absorb Config.algorithm (spanBytes a s) s.dp })) absorbing left
  have spans : spanBytes (a + b) s = spanBytes a s ++ (s.din.drop a).take b := List.take_add
  obtain ⟨h, counter, fill, buf, blocks⟩ := absorb_append Config.algorithm zero (spanBytes a s) ((s.din.drop a).take b)
  rw [← spans] at h counter fill buf blocks
  exact ⟨_, _, _, _, first, second, exec_update_accepted absorbing present, exec_update_accepted absorbing (Nat.zero_le _),
    h, counter, fill, buf, blocks, List.drop_drop, rfl, absorb_nil _⟩

/-- Settles O29: an accepted UPDATE adds the requests of the case table; a waiting or refused one adds none. -/
theorem updateIssuesAtMostTwoRequests : Obligations.UpdateIssuesAtMostTwoRequests := by
  intro s t len ran
  cases execTo_of_exec ran with
  | waits _ => exact ⟨[], by simp⟩
  | update _ _ => exact ⟨_, absorb_trace _, updateRequests_complete (tailBytes_length_lt _)⟩
  | updateRefused _ _ => exact ⟨[], by simp⟩

/-- 41_update R74: a span shorter than the room of a non-empty buffer leaves the bytes outside its place. -/
theorem absorb_buf_getElem?_of_short {n : Nat} (A : Algorithm n) {span : List Byte} {dp : Datapath n}
    (some : 0 < dp.fill.toNat) (short : span.length < 64 - dp.fill.toNat) {i : Nat}
    (outside : i < dp.fill.toNat ∨ dp.fill.toNat + span.length ≤ i) : (absorb A span dp).buf[i]? = dp.buf[i]? := by
  rw [absorb_of_short A some short]
  exact memWrite_getElem?_of_outside (by rw [addToCounter_fill]; omega) outside

/-- 41_update R77: into an empty buffer, the bytes behind the rest of the span stay. -/
theorem absorb_buf_getElem?_of_empty {n : Nat} (A : Algorithm n) {span : List Byte} {dp : Datapath n}
    (empty : dp.fill.toNat = 0) {i : Nat} (behind : span.length % 64 ≤ i) : (absorb A span dp).buf[i]? = dp.buf[i]? := by
  have front := restPart_length span
  rw [← Vector.getElem?_toList, ← Vector.getElem?_toList, absorb_buf_of_empty A empty,
    List.getElem?_append_right (by omega), List.getElem?_drop, front, Nat.add_sub_cancel' behind]

/-- Settles O28: a waiting or refused UPDATE leaves the registers; an accepted one runs `absorb`, branch by branch. -/
theorem updateFrame : Obligations.UpdateFrame := by
  intro s t len ran
  cases execTo_of_exec ran with
  | waits _ => simp
  | update absorbing present =>
    have length : (spanBytes len s).length = len := spanBytes_length present
    refine ⟨fun i => by simp, rfl, rfl, rfl, rfl, fun _ => rfl, absurd absorbing, fun some short => ?_,
      fun empty i behind => absorb_buf_getElem?_of_empty _ empty (length.symm ▸ behind),
      fun empty short => absorb_of_no_block _ (by omega)⟩
    obtain ⟨h, trace⟩ := absorb_of_no_block Config.algorithm (span := spanBytes len s) (dp := s.dp) (by omega)
    exact ⟨h, trace, fun i outside => absorb_buf_getElem?_of_short _ some (length.symm ▸ short) (length.symm ▸ outside)⟩
  | updateRefused refused _ => simp [refused]

/-! The message the registers hold. -/

section
variable {n : Nat} {A : Algorithm n} {trace0 : List CompRequest} {m : List Byte} {dp : Datapath n}

/-- 10_state R30: registers that hold a message have the zero tail, and their tail is the rest of the message. -/
theorem Absorbed.tail (holds : Absorbed A trace0 m dp) : TailZero dp ∧ tailBytes dp = restPart m :=
  tailZero_of_buf (by rw [restPart_length, holds.fill]) (by rw [holds.buf, holds.fill]; rfl)

/-- 10_state R30: after INIT the registers hold the empty message. -/
theorem absorbed_init (A : Algorithm n) (dp : Datapath n) : Absorbed A dp.trace [] (initDatapath A dp) where
  counter := rfl
  fill := rfl
  buf := by rw [initDatapath_buf, memWrite_zeros64, replicate_toList]; rfl
  h := rfl
  blocks := (List.append_nil _).symm

/-- 10_state R30: an accepted UPDATE adds its span to the message the registers hold. -/
theorem Absorbed.absorb (holds : Absorbed A trace0 m dp) (span : List Byte) :
    Absorbed A trace0 (m ++ span) (absorb A span dp) := by
  obtain ⟨zero, tail⟩ := holds.tail
  have rest := restPart_append_eq m span
  have whole := wholePart_append_eq m span
  have count : (restPart m ++ span).length % 64 = (m ++ span).length % 64 := by
    rw [← restPart_length, ← rest, restPart_length]
  exact {
    counter := by rw [absorb_counter, holds.counter, List.length_append, BitVec.ofNat_add]
    fill := by rw [absorb_fill, holds.fill, List.length_append]; omega
    buf := by rw [absorb_buf A zero, tail, ← rest, count]; rfl
    h := by rw [absorb_h, holds.h, tail, whole, compressN_append A _ _ (wholePart_length m)]
    blocks := by rw [absorb_blockTrace, holds.blocks, tail, whole, List.append_assoc] }

end

/-- Settles O30: INIT by `absorbed_init`, an accepted UPDATE by `Absorbed.absorb`. -/
theorem registersHoldMessage : Obligations.RegistersHoldMessage :=
  ⟨fun s => ⟨_, exec_init s, absorbed_init _ s.dp⟩, fun _ _ _ _ absorbing present holds =>
    ⟨_, exec_update_accepted absorbing present, absorbing, holds.absorb _⟩⟩

end Sys2Proof.Machine
end

/-! PROOFS. The padding FINALIZE adds: its blocks by tail and counter, what it leaves of `BUF`, and the length of the padded
message (42_finalize R83 to R88, R91, R92). -/

section
namespace Sys2Proof.Machine

/-- 42_finalize R86: the second block of the two-block path. -/
theorem lengthBlock_length (bits : BitVec 64) : (zeros 56 ++ be64 bits).length = 64 := by simp

section
variable {n : Nat} (A : Algorithm n) {dp : Datapath n}

/-- 43_compression_primitive R98, 42_finalize R92: FINALIZE issues one request, of complete blocks. -/
theorem finish_request : ∃ r, (finish A dp).trace = dp.trace ++ [r] ∧ CompleteRequest r := by
  by_cases single : dp.fill.toNat ≤ 55
  · obtain ⟨trace, buf, -⟩ := finish_single A single rfl
    exact ⟨_, trace, le_rfl, buf ▸ Vector.length_toList⟩
  · have double : 56 ≤ dp.fill.toNat := by omega
    obtain ⟨trace, buf, -⟩ := finish_double A double rfl rfl
    refine ⟨_, trace, one_le_two, ?_⟩
    rw [List.length_append, lengthBlock_length, ← buf, Vector.length_toList]
    rfl

/-- 42_finalize R83: the bytes of `BUF` below `FILL` stay. -/
theorem finish_buf_below {i : Nat} (below : i < dp.fill.toNat) : (finish A dp).buf[i]? = dp.buf[i]? := by
  have small := dp.fill.isLt
  have kept : (putPadByte dp).buf[i]? = dp.buf[i]? := memWrite_getElem?_of_outside small (.inl below)
  rcases finish_cases A dp with ⟨single, run⟩ | ⟨-, run⟩
  · rw [run, writeDigest_buf, padSingle_buf, memWrite_getElem?_of_outside (by simp) (.inl (by omega)),
      memWrite_getElem?_of_outside (by simp; omega) (.inl (by omega)), kept]
  · rw [run, writeDigest_buf, padDouble_buf, kept]

/-- 42_finalize R86: in the two-block path every byte of `BUF` but the one at `FILL` stays. -/
theorem finish_buf_of_double (double : 56 ≤ dp.fill.toNat) {i : Nat} (other : i ≠ dp.fill.toNat) :
    (finish A dp).buf[i]? = dp.buf[i]? := by
  rcases finish_cases A dp with ⟨single, -⟩ | ⟨-, run⟩
  · omega
  · rw [run, writeDigest_buf, padDouble_buf, putPadByte_buf]
    exact memWrite_getElem?_of_outside dp.fill.isLt (by rw [List.length_singleton]; omega)

/-- 10_state R19: under the zero tail, what follows the pad byte is zeros. -/
theorem TailZero.drop_succ (zero : TailZero dp) : dp.buf.toList.drop (dp.fill.toNat + 1) = zeros (63 - dp.fill.toNat) := by
  rw [← List.drop_drop, zero, zeros_drop, Nat.sub_right_comm]

/-- The blocks FINALIZE adds under the zero tail: tail, 0x80, pad zeros and the bit length (42_finalize R85 to R88). -/
def closingBlocks (dp : Datapath n) : List Byte :=
  tailBytes dp ++ [0x80] ++ zeros (padZeros dp.fill.toNat) ++ be64 (totalBits dp.counter)

/-- 42_finalize R85: the closing block of the single-block path. -/
theorem closingBlocks_of_single (single : dp.fill.toNat ≤ 55) :
    closingBlocks dp = tailBytes dp ++ [0x80] ++ zeros (55 - dp.fill.toNat) ++ be64 (totalBits dp.counter) := by
  have pad : padZeros dp.fill.toNat = 55 - dp.fill.toNat := by rw [padZeros]; split <;> omega
  rw [closingBlocks, pad]

/-- 42_finalize R86, R87: the two closing blocks under the zero tail. -/
theorem closingBlocks_of_double (zero : TailZero dp) (double : 56 ≤ dp.fill.toNat) :
    closingBlocks dp =
      tailBytes dp ++ [0x80] ++ dp.buf.toList.drop (dp.fill.toNat + 1) ++ (zeros 56 ++ be64 (totalBits dp.counter)) := by
  have small := dp.fill.isLt
  have pad : padZeros dp.fill.toNat = 63 - dp.fill.toNat + 56 := by rw [padZeros]; split <;> omega
  rw [closingBlocks, pad, ← zeros_append, zero.drop_succ]
  simp only [List.append_assoc]

/-- 42_finalize R84 to R87: under the zero tail FINALIZE sends the closing blocks and folds `H` over them. -/
theorem finish_closing (zero : TailZero dp) :
    blockTrace (finish A dp).trace = blockTrace dp.trace ++ closingBlocks dp ∧
      (finish A dp).h = compressN A dp.h (closingBlocks dp) := by
  by_cases single : dp.fill.toNat ≤ 55
  · obtain ⟨trace, buf, h⟩ := finish_single A single (closingBlocks_of_single single)
    have length : (closingBlocks dp).length = 64 := by rw [← buf, Vector.length_toList]
    rw [trace, blockTrace_append, blockTrace_single, h, compressN_of_length_64 A _ length]
    exact ⟨rfl, rfl⟩
  · have double : 56 ≤ dp.fill.toNat := by omega
    obtain ⟨trace, buf, h⟩ := finish_double A double rfl rfl
    have length := lengthBlock_length (totalBits dp.counter)
    rw [trace, blockTrace_append, blockTrace_single, h, closingBlocks_of_double zero double,
      compressN_append_of_length_64 A _ (by rw [← buf, Vector.length_toList]) length]
    exact ⟨rfl, rfl⟩

end

/-- Settles O33: the two-block path with the bytes behind the pad byte by the zero tail. -/
theorem finalizeTwoBlocksPadWithZeros : Obligations.FinalizeTwoBlocksPadWithZeros := by
  intro s absorbing double zero
  obtain ⟨trace, -⟩ := finish_double Config.algorithm double rfl rfl
  refine ⟨_, exec_finalize_accepted absorbing, ?_⟩
  rw [retire_dp, trace, zero.drop_succ, totalBits_eq, ← List.append_assoc]

/-- Settles O36: an accepted FINALIZE runs `finish`, a refused one leaves the registers. -/
theorem finalizeFrame : Obligations.FinalizeFrame := by
  intro s t ran
  cases execTo_of_exec ran with
  | finalize absorbing =>
    exact ⟨finish_counter _ _, finish_fill _ _, rfl, rfl, rfl, rfl, fun _ => rfl, absurd absorbing,
      fun _ below => finish_buf_below _ below, fun double _ other => finish_buf_of_double _ double other,
      fun _ => finish_request _⟩
  | finalizeRefused refused => simp [refused, drainedBytes]

/-- 42_finalize R88: the length of the padded message. -/
theorem paddedMessage_length (m : List Byte) : (paddedMessage m).length = m.length + 9 + padZeros m.length := by
  simp only [paddedMessage, List.length_append, List.length_singleton, zeros_length, be64_length]
  omega

/-- Settles O38: `n + 9` bytes and the pad zeros, of which there are fewer than 64. -/
theorem paddedMessageLength : Obligations.PaddedMessageLength := by
  intro m
  rw [paddedMessage_length, padZeros]
  split
  next low => exact ⟨fun _ => by omega, fun _ => by omega, fun k _ => by omega⟩
  next high => exact ⟨fun _ => by omega, fun _ => by omega, fun k _ => by omega⟩

/-- 42_finalize R88: the pad zeros depend on the message length modulo 64. -/
theorem padZeros_mod (n : Nat) : padZeros (n % 64) = padZeros n := by
  rw [padZeros, padZeros, Nat.mod_mod]

section
variable {n : Nat} {A : Algorithm n} {trace0 : List CompRequest} {m : List Byte} {dp : Datapath n}

/-- 42_finalize R88, 70_reset_and_hazards R127: where the registers hold a message, its whole blocks and the closing blocks
are the padded message. -/
theorem Absorbed.paddedMessage_eq (holds : Absorbed A trace0 m dp) :
    paddedMessage m = wholePart m ++ closingBlocks dp := by
  have bits : totalBits dp.counter = BitVec.ofNat 64 (8 * m.length) := by
    rw [totalBits, holds.counter, BitVec.mul_comm, BitVec.ofNat_mul]; rfl
  rw [closingBlocks, holds.tail.2, holds.fill, padZeros_mod, bits, paddedMessage]
  simp only [← List.append_assoc, wholePart_append_restPart]

/-- 42_finalize R88: FINALIZE completes the padding of the message the registers hold, in the blocks sent and in `H`. -/
theorem Absorbed.finish (holds : Absorbed A trace0 m dp) :
    blockTrace (finish A dp).trace = blockTrace trace0 ++ paddedMessage m ∧
      (finish A dp).h = compressN A A.iv (paddedMessage m) := by
  obtain ⟨blocks, h⟩ := finish_closing A holds.tail.1
  rw [blocks, h, holds.blocks, holds.h, holds.paddedMessage_eq, compressN_append A _ _ (wholePart_length m),
    List.append_assoc]
  exact ⟨rfl, rfl⟩

end

end Sys2Proof.Machine
end

/-! PROOFS. The invariant of the engine: it holds at reset, every step keeps it, and so does every host transaction (10_state
R19, R30; 43_compression_primitive R98; 70_reset_and_hazards R128). -/

section
namespace Sys2Proof.Machine

/-- The invariant speaks of the registers and the phase only. -/
theorem Inv.of_same {s t : State} (inv : Inv s) (dp : t.dp = s.dp) (phase : t.phase = s.phase) : Inv t := by
  constructor <;> rw [dp]
  · rw [phase]; exact inv.tailZero
  · rw [phase]; exact inv.fillOfCounter
  · rw [phase]; exact inv.digestConsumed
  · rw [phase]; exact inv.digestUninit
  · exact inv.requests

/-- 10_state R32: the invariant holds after every reset. -/
theorem inv_afterReset (k : Nat) : Inv (State.afterReset k) where
  tailZero := nofun
  fillOfCounter := nofun
  digestConsumed := nofun
  digestUninit _ := afterReset_digest_toList k
  requests := nofun

/-- Settles O47: reset number 0. -/
theorem resetMeetsInvariant : Obligations.ResetMeetsInvariant := inv_afterReset 0

/-- 10_state R30: `FILL` stays `COUNTER` modulo 64, since 64 divides 2^64. -/
theorem absorb_fill_eq_counter {n : Nat} (A : Algorithm n) (span : List Byte) {dp : Datapath n}
    (before : dp.fill.toNat = dp.counter.toNat % 64) :
    (absorb A span dp).fill.toNat = (absorb A span dp).counter.toNat % 64 := by
  rw [absorb_fill, absorb_counter, BitVec.toNat_add, BitVec.toNat_ofNat, before]
  omega

/-- Requests added to a trace of complete requests. -/
theorem complete_append {old new : List CompRequest} (before : ∀ r ∈ old, CompleteRequest r)
    (added : ∀ r ∈ new, CompleteRequest r) : ∀ r ∈ old ++ new, CompleteRequest r :=
  List.forall_mem_append.mpr ⟨before, added⟩

/-- Every way of a command keeps the invariant. -/
theorem ExecTo.keeps_inv {i : Instr} {s t : State} (ran : ExecTo s i t) (inv : Inv s) : Inv t := by
  cases ran with
  | init =>
    have empty := absorbed_init Config.algorithm s.dp
    exact { tailZero _ := empty.tail.1, fillOfCounter _ := rfl, digestConsumed := nofun, digestUninit := nofun,
            requests := inv.requests }
  | waits _ => exact inv
  | update absorbing _ =>
    refine { tailZero _ := (absorb_tailZero _ (inv.tailZero absorbing)).1,
             fillOfCounter _ := absorb_fill_eq_counter _ _ (inv.fillOfCounter absorbing),
             digestConsumed consumed := absurd (absorbing.symm.trans consumed) (by decide),
             digestUninit uninit := absurd (absorbing.symm.trans uninit) (by decide),
             requests := ?_ }
    rw [retire_dp, consumeSpan_dp, absorb_trace]
    exact complete_append inv.requests (updateRequests_complete (tailBytes_length_lt _)).2
  | finalize absorbing =>
    refine { tailZero := nofun, fillOfCounter := nofun, digestConsumed _ := finish_digest _ _, digestUninit := nofun,
             requests := ?_ }
    obtain ⟨r, trace, complete⟩ := finish_request Config.algorithm (dp := s.dp)
    rw [retire_dp, trace]
    exact complete_append inv.requests (List.forall_mem_singleton.mpr complete)
  | updateRefused _ _ | finalizeRefused _ => exact inv.of_same (raiseError_dp _ s) (raiseError_phase _ s)

/-- Every way of a step keeps the invariant. -/
theorem StepTo.keeps_inv {s t : State} (went : StepTo s t) (inv : Inv s) : Inv t := by
  cases went with
  | idle _ => exact inv
  | illegal _ _ => exact inv.of_same (raiseError_dp _ s) (raiseError_phase _ s)
  | command _ _ ran => exact ran.keeps_inv inv

/-- Settles O48: way by way. -/
theorem stepKeepsInvariant : Obligations.StepKeepsInvariant := fun _ _ inv stepped =>
  (stepTo_of_step stepped).keeps_inv inv

/-- Settles O49: a write runs steps from a state with the same registers and phase, a reset leaves the reset state. -/
theorem hostKeepsInvariant : Obligations.HostKeepsInvariant := by
  intro r s t reply inv served
  have run : ∀ {u : State}, Inv u → Inv (settle u) := settle_keeps (P := Inv) fun inv went => went.keeps_inv inv
  rcases serveHost_cases served with
    ⟨w, -, -, rfl, -⟩ | ⟨b, -, rfl, -⟩ | ⟨-, rfl, -⟩ | ⟨i, b, -, rfl, -, -⟩ | ⟨-, rfl, -⟩
  · exact run (inv.of_same rfl rfl)
  · exact run (inv.of_same rfl rfl)
  · exact inv
  · exact inv
  · exact inv_afterReset _

end Sys2Proof.Machine
end

/-! PROOFS. Runs of steps: the run of INIT, UPDATEs and FINALIZE hashes the message, and commands the host sends one by one
leave what a run over all of them leaves (42_finalize R88, 20_memory R47, R50, 30_encoding R59, 70_reset_and_hazards R126). -/

section
namespace Sys2Proof.Machine

/-- `t` is reached from `s` by `k` steps. -/
inductive RunTo : Nat → State → State → Prop
  | done (s : State) : RunTo 0 s s
  | step {k : Nat} {s t u : State} (went : StepTo s t) (runs : RunTo k t u) : RunTo (k + 1) s u

/-- The first step of a run of the host's interface. -/
theorem coreRun_succ {M : Host.Core} {s t : M.State} (stepped : M.step s = .next t) (k : Nat) :
    M.run (k + 1) s = M.run k t := by
  simp only [Host.Core.run, stepped]

/-- A run of `k` steps of the host's interface ends where `RunTo` says. -/
theorem RunTo.run_eq {k : Nat} {s t : State} (runs : RunTo k s t) : Host.Core.run core k s = .next t := by
  induction runs with
  | done s => rfl
  | step went _ ih => exact (coreRun_succ (M := core) went.step_eq _).trans ih

theorem RunTo.trans {j k : Nat} {s t u : State} (first : RunTo j s t) (second : RunTo k t u) : RunTo (k + j) s u := by
  induction first with
  | done s => exact second
  | step went _ ih => exact .step went (ih second)

theorem RunTo.single {s t : State} (went : StepTo s t) : RunTo 1 s t := .step went (.done t)

/-! Hashing a message. -/

theorem SameRest.trans {s t u : State} (first : SameRest s t) (second : SameRest t u) : SameRest s u where
  errIllegal := second.errIllegal.trans first.errIllegal
  errUpdatePhase := second.errUpdatePhase.trans first.errUpdatePhase
  errFinalizePhase := second.errFinalizePhase.trans first.errFinalizePhase
  epoch := second.epoch.trans first.epoch

/-- In ABSORBING the registers hold message `m`, `words` and `bytes` stand on the ports, and no error has been raised since
`start`. -/
structure Hashing (start : State) (trace0 : List CompRequest) (m : List Byte) (words : List CmdWord) (bytes : List Byte)
    (s : State) : Prop where
  phase : s.phase = .absorbing
  holds : Absorbed Config.algorithm trace0 m s.dp
  cmd : s.cmd = words
  din : s.din = bytes
  rest : SameRest start s

/-- 40_init R65: the INIT word begins the hashing of the empty message. -/
theorem hashing_init {s : State} {words : List CmdWord} {bytes : List Byte} (cmd : s.cmd = encode .init :: words)
    (din : s.din = bytes) : ∃ t, StepTo s t ∧ Hashing s s.dp.trace [] words bytes t :=
  ⟨_, .command cmd (decodeOfEncode .init rfl) .init, rfl, absorbed_init _ s.dp, by rw [retire_cmd, cmd, List.tail_cons], din,
    ⟨rfl, rfl, rfl, rfl⟩⟩

section
variable {start s : State} {trace0 : List CompRequest} {m : List Byte} {words : List CmdWord} {bytes : List Byte}

/-- 41_update R69: an UPDATE word with its span on DIN adds the span to the message. -/
theorem Hashing.update {span : List Byte} (fits : span.length < lenBound)
    (hashing : Hashing start trace0 m (encode (.update span.length) :: words) (span ++ bytes) s) :
    ∃ t, StepTo s t ∧ Hashing start trace0 (m ++ span) words bytes t := by
  obtain ⟨absorbing, holds, cmd, din, rest⟩ := hashing
  have present : span.length ≤ s.din.length := by rw [din, List.length_append]; omega
  have taken : spanBytes span.length s = span := by rw [spanBytes, din, List.take_left]
  refine ⟨_, .command cmd (decodeOfEncode _ ((wellFormed_update_iff _).mpr fits)) (.update absorbing present), absorbing, ?_,
    ?_, ?_, rest.trans ⟨rfl, rfl, rfl, rfl⟩⟩
  · rw [taken]; exact holds.absorb span
  · rw [retire_cmd, consumeSpan_cmd, cmd, List.tail_cons]
  · rw [retire_din, consumeSpan_din, din, List.drop_left]

/-- 70_reset_and_hazards R123: UPDATE words with their spans on DIN add all spans to the message, one step each. -/
theorem Hashing.updates {spans : List (List Byte)} (fit : ∀ span ∈ spans, span.length < lenBound)
    (hashing : Hashing start trace0 m (spans.map (fun span => encode (.update span.length)) ++ words)
      (spans.flatten ++ bytes) s) :
    ∃ t, RunTo spans.length s t ∧ Hashing start trace0 (m ++ spans.flatten) words bytes t := by
  induction spans generalizing m s with
  | nil => exact ⟨s, .done s, by simpa using hashing⟩
  | cons span spans ih =>
    rw [List.flatten_cons, List.append_assoc] at hashing
    obtain ⟨fits, fit⟩ := List.forall_mem_cons.mp fit
    obtain ⟨t, went, hashing⟩ := hashing.update fits
    obtain ⟨u, runs, hashing⟩ := ih fit hashing
    exact ⟨u, .step went runs, by rwa [List.flatten_cons, ← List.append_assoc]⟩

/-- 42_finalize R81, R88: the FINALIZE word completes the padded message and leaves its digest. -/
theorem Hashing.finalize (hashing : Hashing start trace0 m (encode .finalize :: words) bytes s) :
    ∃ t, StepTo s t ∧ blockTrace t.dp.trace = blockTrace trace0 ++ paddedMessage m ∧
      t.dp.digest.toList = digestBytes (compressN Config.algorithm Config.algorithm.iv (paddedMessage m)) ∧
      t.phase = .consumed ∧ t.cmd = words ∧ t.din = bytes ∧ SameRest start t := by
  obtain ⟨absorbing, holds, cmd, din, rest⟩ := hashing
  obtain ⟨blocks, h⟩ := holds.finish
  refine ⟨_, .command cmd (decodeOfEncode .finalize rfl) (.finalize absorbing), blocks, ?_, rfl,
    by rw [retire_cmd, cmd, List.tail_cons], din, rest.trans ⟨rfl, rfl, rfl, rfl⟩⟩
  rw [retire_dp, finish_digest, h]

end

/-- The words of a hashing run (70_reset_and_hazards R123). -/
theorem hashCommands_encode (spans : List (List Byte)) (more : List CmdWord) :
    (hashCommands spans).map encode ++ more =
      encode .init :: (spans.map (fun span => encode (.update span.length)) ++ encode .finalize :: more) := by
  simp [hashCommands, Function.comp_def]

/-- Settles O51: INIT, an UPDATE per span, FINALIZE, with the message held by the registers in between. -/
theorem hashRunSendsPaddedMessage : Obligations.HashRunSendsPaddedMessage := by
  intro s spans moreWords moreBytes fit cmd din
  rw [hashCommands_encode] at cmd
  obtain ⟨s₁, init, hashing⟩ := hashing_init cmd din
  obtain ⟨s₂, updates, hashing⟩ := hashing.updates fit
  obtain ⟨t, finalize, hashed⟩ := hashing.finalize
  have runs := ((RunTo.single init).trans updates).trans (.single finalize)
  rw [Nat.add_comm 1] at runs
  exact ⟨t, runs.run_eq, hashed⟩

/-! Commands that stand on the ports before others. -/

section
variable {s t : State} (us : List IssuedCommand)

/-- A command that ends takes its word from the front of CMD, whatever stands behind. -/
theorem retire_issueCommands (some : s.cmd ≠ []) : retire (issueCommands us s) = issueCommands us (retire s) := by
  simp only [retire, issueCommands, List.tail_append_of_ne_nil some]

/-- Payload is taken from the front of DIN, whatever stands behind. -/
theorem consumeSpan_issueCommands {len : Nat} (present : len ≤ s.din.length) :
    consumeSpan len (issueCommands us s) = issueCommands us (consumeSpan len s) := by
  simp only [consumeSpan, issueCommands, List.drop_append_of_le_length present]

theorem setErrorBit_issueCommands (c : ErrorCause) :
    setErrorBit c (issueCommands us s) = issueCommands us (setErrorBit c s) := by
  cases c <;> rfl

/-- A refused command takes its word and its payload from the front of the ports, whatever stands behind. -/
theorem raiseError_issueCommands {c : ErrorCause} (some : s.cmd ≠ []) (present : drainedBytes c ≤ s.din.length) :
    raiseError c (issueCommands us s) = issueCommands us (raiseError c s) := by
  have nonempty : (setErrorBit c (consumeSpan (drainedBytes c) s)).cmd ≠ [] := by simpa using some
  rw [raiseError, consumeSpan_issueCommands us present, setErrorBit_issueCommands, retire_issueCommands us nonempty, raiseError]

/-- With its payload present, a command runs the same whatever stands on the ports behind it (20_memory R47). -/
theorem ExecTo.issueCommands {i : Instr} (ran : ExecTo s i t) (some : s.cmd ≠ []) (present : i.lenOperand ≤ s.din.length) :
    ExecTo (issueCommands us s) i (issueCommands us t) := by
  have room : s.din.length ≤ (Machine.issueCommands us s).din.length := by simp
  cases ran with
  | init =>
    rw [← retire_issueCommands us (s := { s with dp := initDatapath Config.algorithm s.dp, phase := .absorbing }) some]
    exact .init
  | waits short => exact absurd present (Nat.not_le.mpr short)
  | @update len absorbing ready =>
    have span : spanBytes len (Machine.issueCommands us s) = spanBytes len s := List.take_append_of_le_length ready
    have ran := ExecTo.update (s := Machine.issueCommands us s) absorbing (ready.trans room)
    rw [span] at ran
    rw [← retire_issueCommands us (s := consumeSpan len { s with dp := absorb Config.algorithm (spanBytes len s) s.dp }) some,
      ← consumeSpan_issueCommands us (s := { s with dp := absorb Config.algorithm (spanBytes len s) s.dp }) ready]
    exact ran
  | @updateRefused len refused ready =>
    rw [← raiseError_issueCommands us (c := .updatePhase len) some ready]
    exact .updateRefused refused (ready.trans room)
  | finalize absorbing =>
    rw [← retire_issueCommands us (s := { s with dp := finish Config.algorithm s.dp, phase := .consumed }) some]
    exact .finalize absorbing
  | finalizeRefused refused =>
    rw [← raiseError_issueCommands us some (Nat.zero_le _)]
    exact .finalizeRefused refused

/-- With its payload present, a step at the first word does the same whatever stands on the ports behind it (20_memory R47). -/
theorem StepTo.issueCommands {w : CmdWord} {rest : List CmdWord} (went : StepTo s t) (words : s.cmd = w :: rest)
    (present : payloadLength w ≤ s.din.length) : StepTo (issueCommands us s) (issueCommands us t) := by
  have some : s.cmd ≠ [] := by rw [words]; exact List.cons_ne_nil w rest
  have front : (Machine.issueCommands us s).cmd = w :: (rest ++ us.map (·.word)) := by rw [issueCommands_cmd, words]; rfl
  rcases went.of_cons words with ⟨e, undecoded, rfl⟩ | ⟨i, decoded, ran⟩
  · rw [← raiseError_issueCommands us some (Nat.zero_le _)]
    exact .illegal front undecoded
  · exact .command front decoded (ran.issueCommands us some (payloadLength_of_decode decoded ▸ present))

end

/-- 20_memory R45: a command that has exactly its payload on DIN completes and leaves none of it. -/
theorem StepTo.empties_ports {s t : State} {w : CmdWord} (went : StepTo s t) (words : s.cmd = [w])
    (whole : s.din.length = payloadLength w) : t.cmd = [] ∧ t.din = [] := by
  have none (notUpdate : ∀ len, decode w ≠ .ok (.update len)) : s.din = [] :=
    List.length_eq_zero_iff.mp (whole.trans (payloadLength_of_not_update notUpdate))
  rcases went.of_cons words with ⟨e, undecoded, rfl⟩ | ⟨i, decoded, ran⟩
  · have none := none (by simp [undecoded])
    simp [words, none, drainedBytes]
  · rw [payloadLength_of_decode decoded] at whole
    cases i with
    | update len =>
      obtain ⟨cmd, din⟩ := ran.empties_din whole
      exact ⟨by rw [cmd, words, List.tail_cons], din⟩
    | init =>
      have none := none (by simp [decoded])
      cases ran
      simp [words, none]
    | finalize =>
      have none := none (by simp [decoded])
      cases ran <;> simp [words, none, drainedBytes]

/-! The host's traffic. -/

theorem serveAll_cons {r : HostRequest} {s t : State} {reply : HostReply} (served : serveHost r s = .ok (t, reply))
    (rest : List HostRequest) : serveAll (r :: rest) s = serveAll rest t := by
  rw [serveAll, served]

theorem serveAll_append {first : List HostRequest} {s t : State} (served : serveAll first s = .ok t)
    (rest : List HostRequest) : serveAll (first ++ rest) s = serveAll rest t := by
  induction first generalizing s with
  | nil => cases served; rfl
  | cons r first ih =>
    cases one : serveHost r s with
    | error e => rw [serveAll, one] at served; contradiction
    | ok answer =>
      rw [serveAll_cons one] at served
      rw [List.cons_append, serveAll_cons one, ih served]

/-- 70_reset_and_hazards R126: the bytes a waiting UPDATE asks for, sent one by one, leave what one step leaves with all of
them on DIN. -/
theorem serveAll_payload {bytes : List Byte} {s t : State} {w : CmdWord} {len : Nat} (words : s.cmd = [w])
    (decoded : decode w = .ok (.update len)) (some : bytes ≠ []) (complete : s.din.length + bytes.length = len)
    (went : StepTo { s with din := s.din ++ bytes } t) : serveAll (bytes.map .writeDin) s = .ok t := by
  induction bytes generalizing s with
  | nil => contradiction
  | cons b rest ih =>
    rw [List.map_cons]
    by_cases last : rest = []
    · subst last
      rw [serveAll_cons (serveHost_writeDin_of_step words went)]
      rfl
    · have more : 0 < rest.length := List.length_pos_iff.mpr last
      rw [List.length_cons] at complete
      rw [serveAll_cons (serveHost_writeDin_of_waiting b words decoded (by omega))]
      refine ih (s := { s with din := s.din ++ [b] }) words last ?_ ?_
      · rw [List.length_append, List.length_singleton]; omega
      · simpa using went

/-- 30_encoding R59, 20_memory R50: a word and its payload, sent on empty ports, leave what one step leaves with both of
them on the ports. -/
theorem serveAll_command {u : IssuedCommand} {s t : State} (cmd : s.cmd = []) (din : s.din = [])
    (length : payloadLength u.word = u.payload.length) (went : StepTo (issueCommands [u] s) t) :
    serveAll (hostTraffic [u]) s = .ok t := by
  have traffic : hostTraffic [u] = .writeCmd u.word :: u.payload.map .writeDin := by simp [hostTraffic]
  have placed : issueCommands [u] s = { s with cmd := [u.word], din := u.payload } := by simp [issueCommands, cmd, din]
  rw [placed] at went
  rw [traffic]
  by_cases none : u.payload = []
  · have went : StepTo { s with cmd := [u.word] } t := by rwa [none, ← din] at went
    rw [serveAll_cons (serveHost_writeCmd_of_step cmd went), none]
    rfl
  · have pos : 0 < u.payload.length := List.length_pos_iff.mpr none
    obtain ⟨len, decoded⟩ : ∃ len, decode u.word = .ok (.update len) := by
      by_contra other
      have := payloadLength_of_not_update (not_exists.mp other)
      omega
    have asked : payloadLength u.word = len := payloadLength_of_decode decoded
    have waits := serveHost_writeCmd_of_waiting cmd decoded (by rw [din, List.length_nil]; omega)
    rw [serveAll_cons waits]
    refine serveAll_payload (s := { s with cmd := [u.word] }) rfl decoded none ?_ ?_
    · rw [din, List.length_nil]; omega
    · rwa [din, List.nil_append]

/-- 20_memory R47, R50: the traffic of commands on empty ports ends where a step per command ends from the ports holding
them all, with empty ports. -/
theorem hostTraffic_runs {us : List IssuedCommand} {s : State} (cmd : s.cmd = []) (din : s.din = [])
    (lengths : ∀ u ∈ us, payloadLength u.word = u.payload.length) :
    ∃ t, serveAll (hostTraffic us) s = .ok t ∧ RunTo us.length (issueCommands us s) t ∧ t.cmd = [] ∧ t.din = [] := by
  induction us generalizing s with
  | nil => exact ⟨s, rfl, by simpa [issueCommands] using .done s, cmd, din⟩
  | cons u us ih =>
    obtain ⟨length, lengths⟩ := List.forall_mem_cons.mp lengths
    obtain ⟨t, went⟩ := exists_stepTo (issueCommands [u] s)
    have word : (issueCommands [u] s).cmd = [u.word] := by simp [cmd]
    have payload : (issueCommands [u] s).din.length = payloadLength u.word := by simp [din, length]
    obtain ⟨cmd', din'⟩ := went.empties_ports word payload
    obtain ⟨v, served, runs, empty⟩ := ih cmd' din' lengths
    have placed : issueCommands (u :: us) s = issueCommands us (issueCommands [u] s) := by simp [issueCommands]
    have traffic : hostTraffic (u :: us) = hostTraffic [u] ++ hostTraffic us := by simp [hostTraffic]
    refine ⟨v, ?_, ?_, empty⟩
    · rw [traffic, serveAll_append (serveAll_command cmd din length went), served]
    · rw [placed]
      exact .step (went.issueCommands us word payload.ge) runs

/-- Settles O55: the run of steps is the host's run. -/
theorem hostTrafficRunsItsCommands : Obligations.HostTrafficRunsItsCommands := by
  intro us s cmd din lengths
  obtain ⟨t, served, runs, empty⟩ := hostTraffic_runs cmd din lengths
  exact ⟨t, served, runs.run_eq, empty⟩

/-- 70_reset_and_hazards R123: each command of a hashing asks for the payload it is sent with. -/
theorem hashTraffic_lengths {spans : List (List Byte)} (fit : ∀ span ∈ spans, span.length < lenBound) :
    ∀ u ∈ hashTraffic spans, payloadLength u.word = u.payload.length := by
  intro u mem
  simp only [hashTraffic, List.cons_append, List.mem_cons, List.mem_append, List.mem_map, List.not_mem_nil, or_false] at mem
  rcases mem with rfl | ⟨span, mem, rfl⟩ | rfl
  · exact IssuedCommand.Legal.init.2
  · exact (IssuedCommand.Legal.of_encode ((wellFormed_update_iff _).mpr (fit span mem)) rfl).2
  · exact IssuedCommand.Legal.finalize.2

/-- 70_reset_and_hazards R123: the words and the spans of a hashing, placed on empty ports. -/
theorem issueCommands_hashTraffic {spans : List (List Byte)} {s : State} (cmd : s.cmd = []) (din : s.din = []) :
    (issueCommands (hashTraffic spans) s).cmd = (hashCommands spans).map encode ++ [] ∧
      (issueCommands (hashTraffic spans) s).din = spans.flatten ++ [] := by
  simp [hashTraffic, hashCommands, cmd, din, Function.comp_def, List.flatMap_map]

/-- Settles O56: the traffic ends where the run of `HashRunSendsPaddedMessage` ends, over the same commands. -/
theorem hostHashLeavesDigest : Obligations.HostHashLeavesDigest := by
  intro s spans cmd din fit
  obtain ⟨t, served, run, -⟩ := hostTrafficRunsItsCommands _ s cmd din (hashTraffic_lengths fit)
  obtain ⟨words, bytes⟩ := issueCommands_hashTraffic (spans := spans) cmd din
  obtain ⟨t', run', blocks, digest, phase, empty, none, rest⟩ := hashRunSendsPaddedMessage _ spans [] [] fit words bytes
  have count : (hashTraffic spans).length = spans.length + 2 := by simp [hashTraffic]
  rw [count] at run
  cases run.symm.trans run'
  have placed : SameRest s (issueCommands (hashTraffic spans) s) := ⟨rfl, rfl, rfl, rfl⟩
  exact ⟨t, served, blocks, digest, phase, empty, none, placed.trans rest⟩

end Sys2Proof.Machine
end
